-- ==== Sys2Proof/Word.lean ====
section
/-! DEFINITION. The word types of the block (00_scope.md R1): bytes on every data path, 16-bit command words. -/

namespace Sys2Proof

/-- A byte, "an 8-bit unsigned value 0x00..0xFF" (R1). -/
abbrev Byte := BitVec 8

/-- A command word, "a 16-bit unsigned value" (R1, R70). -/
abbrev Word := BitVec 16

/-- The width of the response's `err` field, 4 bits (R22, R240). -/
abbrev Nibble := BitVec 4

end Sys2Proof
end

