-- ==== Sys2Proof/Syntax.lean ====
section
/-! DEFINITION. The syntax of the machine: the ten commands (R72), assembler lines (R78), host programs
(R200, R201) and the steps its agents can be asked to take (R6). -/

namespace Sys2Proof

/-- The ten commands of `30_encoding.md` R72, one constructor per row of the opcode table.
The operand types are exactly R73's: `bit1` is a bit, `imm8` a byte. -/
inductive Instr where
  | reset
  | wrbit (b : Bool)
  | rdbit
  | wrbyte (v : Byte)
  | rdbyte
  | crcclr
  | crcfeed (d : Byte)
  | crcchk
  | acquire
  | release
  deriving DecidableEq, Repr, Inhabited

/-- The ten mnemonics of R72. -/
inductive Mnemonic where
  | reset | wrbit | rdbit | wrbyte | rdbyte | crcclr | crcfeed | crcchk | acquire | release
  deriving DecidableEq, Repr, Inhabited

/-- The mnemonic of a command (R72). -/
def Instr.mnemonic : Instr → Mnemonic
  | .reset => .reset
  | .wrbit _ => .wrbit
  | .rdbit => .rdbit
  | .wrbyte _ => .wrbyte
  | .rdbyte => .rdbyte
  | .crcclr => .crcclr
  | .crcfeed _ => .crcfeed
  | .crcchk => .crcchk
  | .acquire => .acquire
  | .release => .release

/-- One assembler line before its operand is checked: "the mnemonic, then at most one operand" (R78). -/
structure AsmLine where
  mnemonic : Mnemonic
  operand : Option Nat
  deriving DecidableEq, Repr, Inhabited

/-! ## Host programs (44_host_transactions.md R200, R201) -/

/-- The operand of WRBYTE or CRCFEED in a host program: a constant, or a host variable whose current byte value the
host puts into the arg field (R78). -/
inductive Operand where
  | imm (v : Byte)
  /-- `$b[k]`. -/
  | var (k : Nat)
  /-- `$d` (R201). -/
  | data
  /-- `$err` (R201), its 4-bit code as a byte (log 22). -/
  | err
  deriving DecidableEq, Repr, Inhabited

/-- A command as a host program writes it (R78, R201). -/
inductive HostCmd where
  | reset
  | wrbit (b : Bool)
  | rdbit
  | wrbyte (v : Operand)
  | rdbyte
  | crcclr
  | crcfeed (d : Operand)
  | crcchk
  | acquire
  | release
  deriving DecidableEq, Repr, Inhabited

/-- The w of `ISSUE w` (R201): the word of a command, or any 16-bit word, legal or not. -/
inductive IssuedWord where
  | cmd (c : HostCmd)
  | word (w : Word)
  deriving DecidableEq, Repr, Inhabited

/-- The E of `abort(E)` (R201): an error code, or `$err`. -/
inductive AbortCode where
  | code (e : Nibble)
  | err
  deriving DecidableEq, Repr, Inhabited

/-- What `return` returns (R201): nothing, the first n bytes of `$b` (a RomCode, R206), or `$t` (R209). -/
inductive ReturnKind where
  | unit
  | bytes (n : Nat)
  | temperature
  deriving DecidableEq, Repr, Inhabited

/-- A host statement (R201, and the assignments of R203 and R209). -/
inductive HostStmt where
  /-- `ISSUE w -> ($err, $d)`. -/
  | issue (w : IssuedWord)
  /-- `MNEMONIC operand!`: issue, then abort unless `$err = OK`. -/
  | bang (c : HostCmd)
  /-- `RDBYTE!` with `$b[k] <- $d`, the one statement that READBYTES has for its byte k (R203). -/
  | readByte (k : Nat)
  /-- `$b[k] <- $d`. -/
  | bind (k : Nat)
  /-- `DELAY t`, in milliseconds (R201, R208). -/
  | delay (ms : Nat)
  /-- `$t <- temp($sp)` (R209, R211). -/
  | temp
  /-- `abort(E)`. -/
  | abort (e : AbortCode)
  /-- `return v`. -/
  | ret (k : ReturnKind)
  deriving DecidableEq, Repr, Inhabited

/-! ## Agent steps (00_scope.md R6) -/

/-- One step that some agent of R6 may be given to take. Which agent moves next, and what the environment
chooses in that move, is no choice of the block: it is data, read from `State.sched` or, where that holds
nothing, drawn from `Config.freeAction`. -/
inductive Action where
  /-- HOST(h) places the word w in its command slot (R34). -/
  | place (h : Nat) (w : Word)
  /-- HOST(h) begins a host program (R200). -/
  | start (h : Nat) (prog : List HostStmt)
  /-- HOST(h) takes the next step of its host program (R200, R201). -/
  | host (h : Nat)
  /-- CTRL turns to requester h's slot and accepts its word if R180 admits it. -/
  | accept (h : Nat)
  /-- CTRL completes the bus command in execution (R131). -/
  | complete
  /-- LINE_TX sends the head of the transmit queue (R128). -/
  | lineTx
  /-- LINE_RX delivers the byte e, the environment's draw (R124, R129, R130). -/
  | lineRx (e : Byte)
  /-- TIMER expires the armed frame (R132). -/
  | timer
  /-- One unit of time passes (R133, R208). No agent of R6: it is the clock the two time bounds read. -/
  | tick
  /-- PLATFORM raises line-ready (R274). -/
  | lineReady
  /-- PLATFORM asserts block reset (R270). -/
  | blockReset
  deriving DecidableEq, Repr, Inhabited

end Sys2Proof
end

