-- ==== Sys2Proof/Config.lean ====
section
/-! DEFINITION. What the spec leaves to an implementation: the OPEN parameters of 00_scope.md §4, its fixed
constants, and the free values, which no rule fixes and nothing in Lean can evaluate. -/

namespace Sys2Proof

/-- TIMEOUT_MODEL (00_scope.md §4, R133): OPEN. -/
inductive TimeoutModel where
  | untimed
  | timed
  deriving DecidableEq, Repr, Inhabited

/-- ECHO_MODEL (00_scope.md §4, R124): OPEN. -/
inductive EchoModel where
  | any
  | wiredAnd
  deriving DecidableEq, Repr, Inhabited

/-- The OPEN parameters of 00_scope.md §4 except N_REQ, which is the number of requesters State lists.
They stand in State so that a claim about every state is a claim about every parameter value (log 2). -/
structure Params where
  timeoutModel : TimeoutModel
  echoModel : EchoModel
  /-- BAUD_NORMAL, in baud. -/
  baudNormal : Nat
  /-- BAUD_RESET, in baud; below BAUD_NORMAL. -/
  baudReset : Nat
  /-- How many `tick` steps make one millisecond. The source gives the timer no resolution (R249; log 9). -/
  ticksPerMs : Nat
  deriving DecidableEq, Repr, Inhabited

/-- The recommended and default values of 00_scope.md §4; the resolution is the model's own (log 2, log 9). -/
def Params.default : Params :=
  { timeoutModel := .untimed, echoModel := .any, baudNormal := 115200, baudReset := 9600, ticksPerMs := 1 }

/-- T_READ, in milliseconds (R133, R249, R285). -/
def tReadMs : Nat := 500

/-- T_CONV, in milliseconds (R208, R250, R285). -/
def tConvMs : Nat := 800

/-- The device's conversion time, about, in milliseconds; no rule uses it (R285). -/
def deviceConversionMs : Nat := 750

/-- FRAME_MAX (00_scope.md §4). -/
def frameMax : Nat := 8

/-- The T_READ bound in `tick` steps. -/
def Params.tRead (p : Params) : Nat := tReadMs * p.ticksPerMs

/-! ## Free values
`opaque` constants without a body, each applied to `State.turn`, which no two steps share. -/

/-- The next agent step where `State.sched` lists none: "any enabled step of any agent may be taken next" (R6),
and the echo byte and the time of a drawn LINE_RX step with it (R124, R133, R183; log 1). -/
opaque Config.freeAction : Nat → Action

/-- `cur.req` after block reset: "unspecified" (R37, R270; log 5). -/
opaque Config.freeCurReq : Nat → Nat

/-- `cur.op` after block reset: "unspecified" (R37, R270; log 5). -/
opaque Config.freeCurOp : Nat → Byte

/-- `cur.arg` after block reset: "unspecified" (R37, R270; log 5). -/
opaque Config.freeCurArg : Nat → Byte

/-- Whether `fr_n` is 8 (else 1) after block reset: "unspecified" (R37, R270; log 5). -/
opaque Config.freeFrameIsEight : Nat → Bool

/-- `fr_buf` after block reset: "unspecified" (R37, R270; log 5). -/
opaque Config.freeFrameBuf : Nat → Vector Byte 8

/-- What a host program reads from its variable `$b[k]` before assigning it, and from `$d` before its first response: no
rule says (R200; log 10). -/
opaque Config.freeHostByte (turn k : Nat) : Byte

/-- What a host program reads from `$err` before its first response: no rule says (R200; log 10). -/
opaque Config.freeHostErr : Nat → Nibble

/-- What a host program returns as `$t` before assigning it: no rule says (R200; log 10). -/
opaque Config.freeHostTemp : Nat → Int

end Sys2Proof
end

