-- ==== Sys2Proof/WellFormed.lean ====
section
/-! DEFINITION. Well-formedness of what a caller writes: assembler lines (R78), commands and the
parameters (00_scope.md §4); a host program's discipline (R202) stands beside its helpers in HostProgram.lean. `Instr`'s operand types leave no ill-formed command; the checks bite on the
raw assembler line that R78 says is refused. -/

namespace Sys2Proof

/-- The operand kinds of R73. -/
inductive OperandKind where
  | none
  | bit1
  | imm8
  deriving DecidableEq, Repr

/-- Which operand each command takes (R72, R73). -/
def Mnemonic.operandKind : Mnemonic → OperandKind
  | .wrbit => .bit1
  | .wrbyte => .imm8
  | .crcfeed => .imm8
  | .reset => .none
  | .rdbit => .none
  | .rdbyte => .none
  | .crcclr => .none
  | .crcchk => .none
  | .acquire => .none
  | .release => .none

/-- A line's operand is present exactly where its mnemonic takes one and is in range: "An operand out of range,
or a bit operand other than 0 or 1, is an assembly error" (R78). -/
def AsmLine.wellFormed (l : AsmLine) : Bool :=
  match l.mnemonic.operandKind, l.operand with
  | .none, none => true
  | .bit1, some n => decide (n < 2)
  | .imm8, some n => decide (n < 256)
  | .none, some _ => false
  | .bit1, none => false
  | .imm8, none => false

/-- The assembler line of a command (R78). -/
def Instr.toAsm : Instr → AsmLine
  | .reset => ⟨.reset, none⟩
  | .wrbit b => ⟨.wrbit, some (if b then 1 else 0)⟩
  | .rdbit => ⟨.rdbit, none⟩
  | .wrbyte v => ⟨.wrbyte, some v.toNat⟩
  | .rdbyte => ⟨.rdbyte, none⟩
  | .crcclr => ⟨.crcclr, none⟩
  | .crcfeed d => ⟨.crcfeed, some d.toNat⟩
  | .crcchk => ⟨.crcchk, none⟩
  | .acquire => ⟨.acquire, none⟩
  | .release => ⟨.release, none⟩

/-- A command is well formed when its assembler line is (R78). -/
def Instr.wellFormed (i : Instr) : Bool := i.toAsm.wellFormed

/-- The command an assembler line stands for, if the line is well formed (R78). -/
def AsmLine.toInstr (l : AsmLine) : Option Instr :=
  if l.wellFormed then
    let n := l.operand.getD 0
    some (match l.mnemonic with
      | .reset => .reset
      | .wrbit => .wrbit (decide (n = 1))
      | .rdbit => .rdbit
      | .wrbyte => .wrbyte (BitVec.ofNat 8 n)
      | .rdbyte => .rdbyte
      | .crcclr => .crcclr
      | .crcfeed => .crcfeed (BitVec.ofNat 8 n)
      | .crcchk => .crcchk
      | .acquire => .acquire
      | .release => .release)
  else none

/-- The bounds 00_scope.md §4 puts on the OPEN parameters: BAUD_RESET below BAUD_NORMAL; and a clock that
moves (log 9). N_REQ ≥ 1 is a clause of the machine's invariant. -/
def Params.wellFormed (p : Params) : Bool :=
  decide (p.baudReset < p.baudNormal) && decide (0 < p.ticksPerMs)

end Sys2Proof
end

