-- ==== Sys2Proof/Decode.lean ====
section
/-! DEFINITION. The command encoding (30_encoding.md): the opcode map of R72 as a table, the total decoder of
R77 over it, the encoder, and `decodeTableWord`, by which the host asks about one row's word. -/

namespace Sys2Proof

/-- The op field, bits [15:8] (R70). -/
def opField (w : Word) : Byte := w.extractLsb' 8 8

/-- The arg field, bits [7:0] (R70). -/
def argField (w : Word) : Byte := w.extractLsb' 0 8

/-- The word with the given op and arg bytes (R70): `{op, arg}`. -/
def mkWord (op arg : Byte) : Word := op ++ arg

/-- A logical bit as a byte: `zext_8(b)` (R1). -/
def zext8 (b : Bool) : Byte := if b then 1 else 0

/-- The op value of each command (R72). -/
def Mnemonic.opcode : Mnemonic → Byte
  | .reset => 0x01
  | .wrbit => 0x02
  | .rdbit => 0x03
  | .wrbyte => 0x04
  | .rdbyte => 0x05
  | .crcclr => 0x08
  | .crcfeed => 0x09
  | .crcchk => 0x0A
  | .acquire => 0x0C
  | .release => 0x0D

/-- One row of R72's opcode map. -/
structure OpRow where
  mnemonic : Mnemonic
  pattern : Word
  mask : Word
  deriving DecidableEq, Repr

/-- The opcode map of R72, row for row: its `match` and `mask` columns. -/
def opRows : List OpRow :=
  [ ⟨.reset, 0x0100, 0xFFFF⟩,
    ⟨.wrbit, 0x0200, 0xFFFE⟩,
    ⟨.rdbit, 0x0300, 0xFFFF⟩,
    ⟨.wrbyte, 0x0400, 0xFF00⟩,
    ⟨.rdbyte, 0x0500, 0xFFFF⟩,
    ⟨.crcclr, 0x0800, 0xFFFF⟩,
    ⟨.crcfeed, 0x0900, 0xFF00⟩,
    ⟨.crcchk, 0x0A00, 0xFFFF⟩,
    ⟨.acquire, 0x0C00, 0xFFFF⟩,
    ⟨.release, 0x0D00, 0xFFFF⟩ ]

/-- "A word w selects a command exactly when `(w & mask) == match` for that row" (R72). -/
def OpRow.selects (r : OpRow) (w : Word) : Bool := w &&& r.mask == r.pattern

/-- The command a word of the given row stands for, its operand read as R73 says. -/
def instrOf (m : Mnemonic) (w : Word) : Instr :=
  match m with
  | .reset => .reset
  | .wrbit => .wrbit (w.getLsbD 0)
  | .rdbit => .rdbit
  | .wrbyte => .wrbyte (argField w)
  | .rdbyte => .rdbyte
  | .crcclr => .crcclr
  | .crcfeed => .crcfeed (argField w)
  | .crcchk => .crcchk
  | .acquire => .acquire
  | .release => .release

/-- Why a word is ILLEGAL. The block answers both alike (R76; log 17). -/
inductive Illegal where
  /-- The op value is unassigned (R75). -/
  | unassignedOpcode (op : Byte)
  /-- The op value is assigned and a reserved arg bit is set (R74). -/
  | reservedArgBits (op arg : Byte)
  deriving DecidableEq, Repr

/-- Whether an op value names a row of R72. -/
def assignedOp (op : Byte) : Bool := opRows.any fun r => r.mnemonic.opcode == op

/-- R77: the first row that selects the word, else ILLEGAL. Total on every 16-bit word. -/
def decode (w : Word) : Except Illegal Instr :=
  match opRows.find? (fun r => r.selects w) with
  | some r => .ok (instrOf r.mnemonic w)
  | none =>
    if assignedOp (opField w) then .error (.reservedArgBits (opField w) (argField w))
    else .error (.unassignedOpcode (opField w))

/-- The word of a command (R72, R78). -/
def encode : Instr → Word
  | .reset => mkWord 0x01 0x00
  | .wrbit b => mkWord 0x02 (zext8 b)
  | .rdbit => mkWord 0x03 0x00
  | .wrbyte v => mkWord 0x04 v
  | .rdbyte => mkWord 0x05 0x00
  | .crcclr => mkWord 0x08 0x00
  | .crcfeed d => mkWord 0x09 d
  | .crcchk => mkWord 0x0A 0x00
  | .acquire => mkWord 0x0C 0x00
  | .release => mkWord 0x0D 0x00

/-- The instruction the decoder reads from the `nbits`-bit word `w` of an opcode-table row. Every command is
16 bits and crosses the interface as one unit (R55, R70); a word of another length, or a number that does not
fit in it, is no command word and is refused (R57). -/
def decodeTableWord (nbits w : Nat) : Option Instr :=
  if nbits = 16 ∧ w < 65536 then
    match decode (BitVec.ofNat 16 w) with
    | .ok i => some i
    | .error _ => none
  else none

end Sys2Proof
end

