-- ==== Sys2Proof/Machine/State.lean ====
section
/-! DEFINITION. The machine's state (10_state.md), its reset value (R37), and the reasons a step can stop. -/

namespace Sys2Proof.Machine

/-- `baud_mode` (R23): NORMAL = 0, RESET = 1. -/
inductive BaudMode where
  | normal
  | reset
  deriving DecidableEq, Repr, Inhabited

/-- `phase` (R25). -/
inductive Phase where
  | idle
  | xfer
  deriving DecidableEq, Repr, Inhabited

/-- `fr_n` (R28): the expected byte count, "1 or 8". -/
inductive FrameLen where
  | one
  | eight
  deriving DecidableEq, Repr, Inhabited

/-- `cur` (R26): the command latched at acceptance; valid only in XFER. -/
structure Latch where
  req : Nat
  op : Byte
  arg : Byte
  deriving DecidableEq, Repr, Inhabited

/-- A response as its requester receives it: a 4-bit error code and a data byte (R22). -/
structure Response where
  err : Nibble
  data : Byte
  deriving DecidableEq, Repr, Inhabited

/-- One event of `hist` (R36). -/
inductive Event where
  | cmd (h : Nat) (w : Word)
  | tx (b : Byte) (mode : BaudMode)
  | rx (b : Byte) (taken : Bool)
  | expire
  | rsp (h : Nat) (err : Nibble) (data : Byte)
  | reset
  deriving DecidableEq, Repr, Inhabited

/-! ## The host side of a requester (44_host_transactions.md R200, R201, R212) -/

/-- The value a transaction returns (R206, R209, R212). A temperature is the exact rational `raw / 16` (R211),
held as its count of sixteenths. -/
inductive TxValue where
  | unit
  | bytes (bs : List Byte)
  | temperature (sixteenths : Int)
  deriving DecidableEq, Repr, Inhabited

/-- How a transaction ended: "a value ... [or] an error kind" (R212). -/
inductive TxResult where
  | value (v : TxValue)
  | error (e : Nibble)
  deriving DecidableEq, Repr, Inhabited

/-- What a host is doing between two of its steps (R201). -/
inductive HostCtl where
  /-- No host program has been started. -/
  | idle
  /-- About to execute the statement at `idx`. -/
  | run
  /-- The word of an `ISSUE` (bang = false) or a `MNEMONIC operand!` (bang = true) is placed; waiting for its response. -/
  | await (bang : Bool)
  /-- In `DELAY`, with this many ticks left. -/
  | delay (left : Nat)
  /-- In `abort(e)`, before its RELEASE is placed. -/
  | abort (e : Nibble)
  /-- In `abort(e)`, waiting for the RELEASE response. -/
  | awaitAbort (e : Nibble)
  /-- In `return v`, waiting for the RELEASE response. -/
  | awaitReturn (v : TxValue)
  /-- The program has run past its last statement without `return` or `abort`, so it has not ended (R283; log 14). -/
  | ranOut
  /-- The program has ended, by `return` or `abort`, and any RELEASE of it is answered (R201). -/
  | done (r : TxResult)
  deriving DecidableEq, Repr, Inhabited

/-- The state of a host program: "its own statement index ... and its variables" (R200). -/
structure HostProc where
  prog : List HostStmt
  /-- The statement index, the host's program counter. -/
  idx : Nat
  ctl : HostCtl
  /-- `$err`. -/
  err : Nibble
  /-- `$d`. -/
  d : Byte
  /-- `$b[k]` (`$rom`, `$sp`); `none` where the program has assigned nothing. -/
  buf : List (Option Byte)
  /-- `$t`, in sixteenths of a degree; `none` before it is assigned. -/
  temp : Option Int
  /-- This transaction holds the lock: its ACQUIRE was answered OK and no RELEASE since (R201). -/
  holds : Bool
  deriving DecidableEq, Repr, Inhabited

/-- A host that runs no program. -/
def HostProc.none : HostProc :=
  { prog := [], idx := 0, ctl := .idle, err := 0, d := 0, buf := [], temp := Option.none, holds := false }

/-- One requester: the block's two per-requester fields (R34), and its host side, which no block field holds. -/
structure Requester where
  /-- `cmd_slot[h]`. -/
  slot : Option Word
  /-- `waiting[h]`. -/
  waiting : Bool
  /-- The response delivered to the host and not yet taken by it (R245). -/
  inbox : Option Response
  /-- The host program's state (R200). -/
  host : HostProc
  deriving DecidableEq, Repr, Inhabited

/-- A requester with nothing placed, nothing outstanding and no host program. -/
def Requester.fresh : Requester :=
  { slot := none, waiting := false, inbox := none, host := HostProc.none }

/-! ## The state -/

/-- The machine's state: the tuple of R20, the T_READ timer of R249, the requesters of R34, the event history of
R36, and, after these, the model's own fields. -/
structure State where
  /-- R23. Its value is also the line output `baud_sel` (R21). -/
  baudMode : BaudMode
  /-- R24. -/
  ready : Bool
  /-- R25. -/
  phase : Phase
  /-- R26. -/
  cur : Latch
  /-- R27: bytes waiting to be sent, head first. -/
  txq : List Byte
  /-- R28. -/
  frArmed : Bool
  /-- R28. -/
  frN : FrameLen
  /-- R28: bytes received into the armed frame. -/
  frCnt : Nat
  /-- R28: the received bytes, in arrival order. -/
  frBuf : Vector Byte 8
  /-- R28. -/
  frExpired : Bool
  /-- R249: ticks since `arm`, while the frame is armed. -/
  frTimer : Nat
  /-- R29. -/
  crcAcc : Byte
  /-- R30. -/
  lockOwner : Option Nat
  /-- R34: `cmd_slot[h]` and `waiting[h]` with h's host side; N_REQ is this list's length. -/
  reqs : List Requester
  /-- R36, oldest first. -/
  hist : List Event
  /-- The OPEN parameters (00_scope.md §4). No step writes it. -/
  params : Params
  /-- The model's own: the requester id that travels beside the word now on the command input (R22, R71). -/
  reqId : Nat
  /-- The model's own: agent steps laid down in advance, first to be taken first (R6). -/
  sched : List Action
  /-- The model's own: steps taken so far, the argument of every free value. -/
  turn : Nat
  deriving DecidableEq, Repr

/-- Why the machine stops. Both are unreachable: `Safety.Inv` holds at reset, every step keeps it, and no state
that meets it faults (log 13). -/
inductive Fault where
  /-- Raised by the completion step (R131) when the frame is full and `cur.op` is no bus command's op. No run
  latches such a `cur`. Safe: the machine stops where the spec gives no `finish_<c.op>`. -/
  | corruptLatch
  /-- Raised by a host step that takes a response with an error code of 9 to 15: "never produced; a model that
  receives one should fault" (93_implementation_defined.md U4). Safe. -/
  | reservedErrorCode
  deriving DecidableEq, Repr

/-- Why the machine gives a command no meaning. -/
inductive Refusal where
  /-- The instruction has no meaning in this model yet, by its mnemonic. Raised by no arm of `exec`. Safe. -/
  | notModelled (mnemonic : String)
  deriving DecidableEq, Repr

/-- The machine right after block reset (R37, R270). The spec gives no value for `cur`, `fr_n` and `fr_buf`; those
here are the model's (log 4). N_REQ = 2 (log 3); the parameters are the spec's defaults (log 2); `hist` holds the
`reset` event (log 6). -/
def State.reset : State :=
  { baudMode := .normal
    ready := false
    phase := .idle
    cur := ⟨0, 0, 0⟩
    txq := []
    frArmed := false
    frN := .one
    frCnt := 0
    frBuf := Vector.replicate 8 0
    frExpired := false
    frTimer := 0
    crcAcc := 0x00
    lockOwner := none
    reqs := [Requester.fresh, Requester.fresh]
    hist := [.reset]
    params := Params.default
    reqId := 0
    sched := []
    turn := 0 }

end Sys2Proof.Machine
end

