-- ==== Sys2Proof/Machine/Flags.lean ====
section
/-! DEFINITION. The outcomes of a command. The block keeps no flags: "The outcome of each command is the 4-bit
error code in its response" (R33). Here are the codes (R240) and the tests that choose among them. -/

namespace Sys2Proof.Machine

/-- The error codes that are produced (R240). Codes 9 to 15 are reserved and have no constructor. -/
inductive ErrCode where
  | ok
  | noDevice
  | shortCircuit
  | presence
  | readTimeout
  | responseMismatch
  | crc
  | illegal
  | notOwner
  deriving DecidableEq, Repr, Inhabited

/-- The number of each error code (R240). -/
def ErrCode.code : ErrCode → Nibble
  | .ok => 0
  | .noDevice => 1
  | .shortCircuit => 2
  | .presence => 3
  | .readTimeout => 4
  | .responseMismatch => 5
  | .crc => 6
  | .illegal => 7
  | .notOwner => 8

/-- The error code of a response's `err` field; `none` for the reserved 9 to 15 (R240). -/
def ErrCode.ofCode (n : Nibble) : Option ErrCode :=
  match n.toNat with
  | 0 => some .ok
  | 1 => some .noDevice
  | 2 => some .shortCircuit
  | 3 => some .presence
  | 4 => some .readTimeout
  | 5 => some .responseMismatch
  | 6 => some .crc
  | 7 => some .illegal
  | 8 => some .notOwner
  | _ => none

/-- The classes of a presence byte (R150). `malformed` is the class the PRESENCE error reports (90_conflicts.md C2). -/
inductive Presence where
  | noDevice
  | shortCircuit
  | present
  | malformed
  deriving DecidableEq, Repr, Inhabited

/-- `classify(p)`, its tests in R150's order. -/
def classify (p : Byte) : Presence :=
  if p = 0xF0 then .noDevice
  else if p = 0x00 then .shortCircuit
  else if 0x10 ≤ p.toNat ∧ p.toNat ≤ 0xE0 then .present
  else .malformed

/-- The error code that reports a class (R152, R240). -/
def Presence.errCode : Presence → ErrCode
  | .noDevice => .noDevice
  | .shortCircuit => .shortCircuit
  | .present => .ok
  | .malformed => .presence

/-- The "CRC is zero" condition, computed from `crc_acc` (R33, R105). -/
def crcIsZero (acc : Byte) : Bool := acc == 0x00

/-- The outcome of CRCCHK's test (R105). -/
def crcOutcome (acc : Byte) : ErrCode := if crcIsZero acc then .ok else .crc

/-- The outcome of a write's echo check: the decoded value against the intended one (R135, R153, 90_conflicts.md C8). -/
def echoOutcome (decoded intended : Byte) : ErrCode :=
  if decoded = intended then .ok else .responseMismatch

end Sys2Proof.Machine
end

