-- ==== Sys2Proof/Machine/Operands.lean ====
section
/-! DEFINITION. What a command's operand becomes on the line and back: the bit-codec (41_bitcodec.md R120 to R126),
the frame patterns of the bus commands, and the UART frame of the informative timing notes (R56, R123, R284). -/

namespace Sys2Proof.Machine

/-- `pat(b)`, the slot pattern of a logical bit (R120). -/
def pat (b : Bool) : Byte := if b then 0xFF else 0x00

/-- The pattern of a read slot, "always 0xFF" (R120). -/
def releasePattern : Byte := 0xFF

/-- The byte of a reset exchange (R151). -/
def resetPattern : Byte := 0xF0

/-- `dec(e)`, the echo decode: 1 only for the exact value 0xFF (R121). -/
def dec (e : Byte) : Bool := e == 0xFF

/-- `slots(v)`, the eight slot patterns of a byte, bit 0 first (R125, R52). -/
def slots (v : Byte) : List Byte :=
  [pat (v.getLsbD 0), pat (v.getLsbD 1), pat (v.getLsbD 2), pat (v.getLsbD 3),
   pat (v.getLsbD 4), pat (v.getLsbD 5), pat (v.getLsbD 6), pat (v.getLsbD 7)]

/-- The eight release slots of RDBYTE (R154). -/
def releaseSlots : List Byte := List.replicate 8 releasePattern

/-- `assemble(e0..e7)`: the decoded echo of slot i goes to bit i (R126). -/
def assemble : List Byte → Byte
  | [] => 0
  | e :: es => zext8 (dec e) ||| (assemble es <<< 1)

/-- The patterns transmitted for the frame of a latched bus command, in order (R135, R136, R151, R153, R154);
empty where the op is no bus command's. It is the `p` of ECHO_MODEL = WIRED_AND (R124). -/
def framePatterns (c : Latch) : List Byte :=
  if c.op = 0x01 then [resetPattern]
  else if c.op = 0x02 then [pat (c.arg.getLsbD 0)]
  else if c.op = 0x03 then [releasePattern]
  else if c.op = 0x04 then slots c.arg
  else if c.op = 0x05 then releaseSlots
  else []

/-- The number of bytes of a frame (R28). -/
def FrameLen.toNat : FrameLen → Nat
  | .one => 1
  | .eight => 8

/-- The rate, in baud, of a baud mode (R23, R128). -/
def BaudMode.rate (p : Params) : BaudMode → Nat
  | .normal => p.baudNormal
  | .reset => p.baudReset

/-! ## Line timing (informative: "no rule of the model depends on it", R284) -/

/-- The bit levels of one 8N1 UART byte: start bit low, data bits 0 to 7, stop bit high (R56). -/
def uartFrame (b : Byte) : List Bool :=
  false :: ((List.range 8).map fun i => b.getLsbD i) ++ [true]

/-- How many bit periods the line stays low from the start of a byte (R123, R284). -/
def lowPeriods (b : Byte) : Nat := ((uartFrame b).takeWhile (fun level => !level)).length

/-- The time, in seconds, of n bit periods at a rate (R284). -/
def bitPeriods (n rate : Nat) : Rat := (n : Rat) / (rate : Rat)

/-- The time of one byte on the line (R56, R284): ten bit periods. -/
def byteTime (rate : Nat) : Rat := bitPeriods (uartFrame 0).length rate

end Sys2Proof.Machine
end

