-- ==== Sys2Proof/Machine/Ops.lean ====
section
/-! DEFINITION. The named operations over the state: requester slots, the acceptance gate (R180), the frame
accumulator (R127, R134), the transmit queue, and the one way a command ends, its response (R3, R245). -/

namespace Sys2Proof.Machine

/-! ## History and requesters -/

/-- `hist <- hist ++ [e]` (R36). -/
def record (e : Event) (s : State) : State := { s with hist := s.hist ++ [e] }

/-- N_REQ (00_scope.md §4). -/
def nReq (s : State) : Nat := s.reqs.length

/-- Change requester h's record; nothing where there is no requester h (R6: h is in 0..N_REQ-1). -/
def updReq (h : Nat) (f : Requester → Requester) (s : State) : State := { s with reqs := s.reqs.modify h f }

/-- `cmd_slot[h]` (R34). -/
def slotOf (h : Nat) (s : State) : Option Word :=
  match s.reqs[h]? with
  | some r => r.slot
  | none => none

/-- `waiting[h]` (R34). -/
def waitingOf (h : Nat) (s : State) : Bool :=
  match s.reqs[h]? with
  | some r => r.waiting
  | none => false

/-- "HOST(h) may place a word only when `cmd_slot[h] = none` and `waiting[h] = false`" (R34). -/
def canPlace (r : Requester) : Bool := r.slot.isNone && !r.waiting

/-- HOST places a word: it stands in the slot, and its host has no response to take until this word's. -/
def placeWord (w : Word) (r : Requester) : Requester := { r with slot := some w, inbox := none }

/-! ## The acceptance gate and the latch -/

/-- `lock_owner == none or lock_owner == h` (R180). -/
def lockAdmits (h : Nat) (s : State) : Bool :=
  match s.lockOwner with
  | none => true
  | some o => o == h

/-- `can_accept(h)` (R180). -/
def canAccept (h : Nat) (s : State) : Bool :=
  s.ready && (s.phase == .idle) && (slotOf h s).isSome && lockAdmits h s

/-- What every acceptance does, of a bus command or not (R36, R137, R245): the slot empties, the requester waits,
and `cmd(h, w)` is recorded. -/
def latch (h : Nat) (w : Word) (s : State) : State :=
  record (.cmd h w) (updReq h (fun r => { r with slot := none, waiting := true }) s)

/-! ## Ending a command: the response (the block's only "exception" mechanism, R244) -/

/-- Deliver the response `(h, err, data)` (R245): `waiting[h] <- false`, the event, and the pair to h's host.
Nothing is saved and nothing is vectored, so this one operation is both the entry and the return (R244, R246). -/
def deliver (h : Nat) (e : ErrCode) (d : Byte) (s : State) : State :=
  record (.rsp h e.code d)
    (updReq h (fun r => { r with waiting := false, inbox := some ⟨e.code, d⟩ }) s)

/-- `respond(d)` for requester h (R3). -/
def respond (h : Nat) (d : Byte) (s : State) : State := deliver h .ok d s

/-- `raise E(d)` for requester h (R3, R244). -/
def raise (h : Nat) (e : ErrCode) (d : Byte) (s : State) : State := deliver h e d s

/-! ## Frame accumulator and transmit queue -/

/-- `arm(n)` (R127). -/
def arm (n : FrameLen) (s : State) : State :=
  { s with frArmed := true, frN := n, frCnt := 0, frExpired := false, frTimer := 0 }

/-- `disarm()` (R134): `fr_n` and `fr_buf` are left as they were (log 8). -/
def disarm (s : State) : State :=
  { s with frArmed := false, frCnt := 0, frExpired := false, frTimer := 0 }

/-- `Tx(b)` (R4). -/
def tx (b : Byte) (s : State) : State := { s with txq := s.txq ++ [b] }

/-- "for each b of bytes, in order: Tx(b)" (R137). -/
def txAll : List Byte → State → State
  | [], s => s
  | b :: bs, s => txAll bs (tx b s)

/-- The frame waits for bytes: armed, not expired and not full (R129, R132). -/
def frameOpen (s : State) : Bool := s.frArmed && !s.frExpired && decide (s.frCnt < s.frN.toNat)

/-- `e <- [fr_buf[0], ..., fr_buf[fr_n - 1]]` (R131). -/
def echoes (s : State) : List Byte := s.frBuf.toList.take s.frN.toNat

/-- `accept_bus(h, w, n, bytes, reset_rate)` (R137): the frame is armed and the baud mode set before any byte is queued. -/
def acceptBus (h : Nat) (w : Word) (n : FrameLen) (bytes : List Byte) (resetRate : Bool) (s : State) : State :=
  let s := latch h w { s with phase := .xfer, cur := ⟨h, opField w, argField w⟩ }
  let s := if resetRate then { s with baudMode := .reset } else s
  txAll bytes (arm n s)

/-! ## Which step is next -/

/-- The agent step to take: the first of `sched`, else a free one (R6; log 1). -/
def nextAction (s : State) : Action :=
  match s.sched with
  | a :: _ => a
  | [] => Config.freeAction s.turn

/-- Account for one step taken. -/
def advance (s : State) : State := { s with sched := s.sched.tail, turn := s.turn + 1 }

end Sys2Proof.Machine
end

