-- ==== Sys2Proof/Machine/BitCodec.lean ====
section
/-! DEFINITION. The single-bit commands WRBIT and RDBIT (41_bitcodec.md R135, R136): acceptance and finish. A bus
command's two atomic steps are its acceptance, which `exec` runs, and its completion (R131), which ends in `finish`. -/

namespace Sys2Proof.Machine

/-- WRBIT b, acceptance: `accept_bus(h, w, 1, [pat(b)], false)` (R135). -/
def execWrbit (b : Bool) (s : State) : Host.Outcome State Fault Refusal :=
  .next (acceptBus s.reqId (encode (.wrbit b)) .one [pat b] false s)

/-- RDBIT, acceptance: `accept_bus(h, w, 1, [0xFF], false)` (R136). -/
def execRdbit (s : State) : Host.Outcome State Fault Refusal :=
  .next (acceptBus s.reqId (encode .rdbit) .one [releasePattern] false s)

/-- `finish_WRBIT(c, e)` (R135): the decoded echo against `c.arg[0]`. -/
def finishWrbit (c : Latch) (e : List Byte) (s : State) : State :=
  let d := zext8 (dec (e.headD 0))
  match echoOutcome d (zext8 (c.arg.getLsbD 0)) with
  | .ok => respond c.req d s
  | err => raise c.req err d s

/-- `finish_RDBIT(c, e)` (R136). -/
def finishRdbit (c : Latch) (e : List Byte) (s : State) : State :=
  respond c.req (zext8 (dec (e.headD 0))) s

end Sys2Proof.Machine
end

