-- ==== Sys2Proof/Machine/Bus.lean ====
section
/-! DEFINITION. The bus controller's commands RESET, WRBYTE and RDBYTE (42_bus.md): acceptance and finish. -/

namespace Sys2Proof.Machine

/-- RESET, acceptance: `accept_bus(h, w, 1, [0xF0], true)` (R151). -/
def execReset (s : State) : Host.Outcome State Fault Refusal :=
  .next (acceptBus s.reqId (encode .reset) .one [resetPattern] true s)

/-- WRBYTE v, acceptance: `accept_bus(h, w, 8, slots(v), false)` (R153). -/
def execWrbyte (v : Byte) (s : State) : Host.Outcome State Fault Refusal :=
  .next (acceptBus s.reqId (encode (.wrbyte v)) .eight (slots v) false s)

/-- RDBYTE, acceptance: `accept_bus(h, w, 8, [0xFF x 8], false)` (R154). -/
def execRdbyte (s : State) : Host.Outcome State Fault Refusal :=
  .next (acceptBus s.reqId (encode .rdbyte) .eight releaseSlots false s)

/-- `finish_RESET(c, e)` (R152): the one reply byte sorted by R150; the response carries it on every path. -/
def finishReset (c : Latch) (e : List Byte) (s : State) : State :=
  let p := e.headD 0
  match classify p with
  | .present => respond c.req p s
  | k => raise c.req k.errCode p s

/-- `finish_WRBYTE(c, e)` (R153). -/
def finishWrbyte (c : Latch) (e : List Byte) (s : State) : State :=
  let d := assemble e
  match echoOutcome d c.arg with
  | .ok => respond c.req d s
  | err => raise c.req err d s

/-- `finish_RDBYTE(c, e)` (R154). -/
def finishRdbyte (c : Latch) (e : List Byte) (s : State) : State :=
  respond c.req (assemble e) s

end Sys2Proof.Machine
end

