-- ==== Sys2Proof/Machine/Crc.lean ====
section
/-! DEFINITION. The CRC-8 checker (40_crc8.md): the function, and CRCCLR, CRCFEED and CRCCHK. -/

namespace Sys2Proof.Machine

/-- One of `step8`'s eight rounds: shift right, and XOR 0x8C if the bit shifted out was set (R100). -/
def crcRound (a : Byte) : Byte :=
  if a.getLsbD 0 then (a >>> 1) ^^^ 0x8C else a >>> 1

/-- n rounds. -/
def crcRounds : Nat → Byte → Byte
  | 0, a => a
  | n + 1, a => crcRounds n (crcRound a)

/-- `step8(acc, b)`, the one-byte update (R100). -/
def step8 (acc b : Byte) : Byte := crcRounds 8 (acc ^^^ b)

/-- The fold of `step8` over a byte sequence (R101). -/
def crcFold (acc : Byte) : List Byte → Byte
  | [] => acc
  | b :: bs => crcFold (step8 acc b) bs

/-- `crc8(s)` (R101). -/
def crc8 (bs : List Byte) : Byte := crcFold 0x00 bs

/-- CRCCLR (R103): `crc_acc <- 0x00; respond(0x00)`, in its acceptance step. -/
def execCrcclr (s : State) : Host.Outcome State Fault Refusal :=
  .next (respond s.reqId 0x00 { latch s.reqId (encode .crcclr) s with crcAcc := 0x00 })

/-- CRCFEED d (R104): `crc_acc <- step8(crc_acc, d)`; the response carries the new value. -/
def execCrcfeed (d : Byte) (s : State) : Host.Outcome State Fault Refusal :=
  .next (respond s.reqId (step8 s.crcAcc d)
    { latch s.reqId (encode (.crcfeed d)) s with crcAcc := step8 s.crcAcc d })

/-- CRCCHK (R105): OK with 0x00 if the accumulator is zero, else CRC with the accumulator; it writes no state. -/
def execCrcchk (s : State) : Host.Outcome State Fault Refusal :=
  let s' := latch s.reqId (encode .crcchk) s
  match crcOutcome s.crcAcc with
  | .ok => .next (respond s.reqId 0x00 s')
  | e => .next (raise s.reqId e s.crcAcc s')

end Sys2Proof.Machine
end

