-- ==== Sys2Proof/Machine/Lock.lean ====
section
/-! DEFINITION. The bus lock (43_lock.md): ACQUIRE and RELEASE. The gate that holds other requesters' words is
`canAccept` (R180). -/

namespace Sys2Proof.Machine

/-- ACQUIRE (R181): `lock_owner <- h; respond(0x00)`. -/
def execAcquire (s : State) : Host.Outcome State Fault Refusal :=
  .next (respond s.reqId 0x00 { latch s.reqId (encode .acquire) s with lockOwner := some s.reqId })

/-- RELEASE (R182): the owner frees the lock; otherwise NOT_OWNER, and the lock is left as it is. -/
def execRelease (s : State) : Host.Outcome State Fault Refusal :=
  let s' := latch s.reqId (encode .release) s
  if s.lockOwner = some s.reqId then
    .next (respond s.reqId 0x00 { s' with lockOwner := none })
  else
    .next (raise s.reqId .notOwner 0x00 s')

end Sys2Proof.Machine
end

