-- ==== Sys2Proof/Machine/Dispatch.lean ====
section
/-! DEFINITION. The dispatch: CTRL's acceptance of each command, from the requester `s.reqId`. -/

namespace Sys2Proof.Machine

/-- What the acceptance of a command does (R72's rule column). A bus command's other step is its completion (log 7). -/
def exec (i : Instr) (s : State) : Host.Outcome State Fault Refusal :=
  match i with
  | .reset => Sys2Proof.Machine.execReset s
  | .wrbit b => Sys2Proof.Machine.execWrbit b s
  | .rdbit => Sys2Proof.Machine.execRdbit s
  | .wrbyte v => Sys2Proof.Machine.execWrbyte v s
  | .rdbyte => Sys2Proof.Machine.execRdbyte s
  | .crcclr => Sys2Proof.Machine.execCrcclr s
  | .crcfeed d => Sys2Proof.Machine.execCrcfeed d s
  | .crcchk => Sys2Proof.Machine.execCrcchk s
  | .acquire => Sys2Proof.Machine.execAcquire s
  | .release => Sys2Proof.Machine.execRelease s

end Sys2Proof.Machine
end

