-- ==== Sys2Proof/Machine/Controller.lean ====
section
/-! DEFINITION. CTRL, the block's controller: it accepts a command (R76, R180) and completes it (R131). -/

namespace Sys2Proof.Machine

/-- An illegal word from h (R76): `raise ILLEGAL(0x00)` at once, and no other state written. -/
def acceptIllegal (h : Nat) (w : Word) (s : State) : State :=
  raise h .illegal 0x00 (latch h w s)

/-- CTRL's acceptance step for requester h: where R180 admits the word in `cmd_slot[h]`, it is decoded (R77) and
runs with h beside it; where it does not, "the word stays in `cmd_slot[h]` and the requester waits" (log 15). -/
def acceptStep (h : Nat) (s : State) : Host.Outcome State Fault Refusal :=
  if canAccept h s then
    match slotOf h s with
    | some w =>
      match decode w with
      | .ok i => exec i { s with reqId := h }
      | .error _ => .next (acceptIllegal h w { s with reqId := h })
    | none => .next s
  else .next s

/-- The completion step is enabled (R131). -/
def canComplete (s : State) : Bool :=
  (s.phase == .xfer) && s.txq.isEmpty && (s.frCnt == s.frN.toNat || s.frExpired)

/-- `finish_<c.op>(c, e)` (R131): the finish of the latched command. -/
def finish (c : Latch) (e : List Byte) (s : State) : Host.Outcome State Fault Refusal :=
  if c.op = 0x01 then .next (finishReset c e s)
  else if c.op = 0x02 then .next (finishWrbit c e s)
  else if c.op = 0x03 then .next (finishRdbit c e s)
  else if c.op = 0x04 then .next (finishWrbyte c e s)
  else if c.op = 0x05 then .next (finishRdbyte c e s)
  else .fault .corruptLatch

/-- The common part of R131: disarm, restore the rate if the command is RESET (R152), return to IDLE. -/
def restoreIdle (s : State) : State :=
  { disarm s with baudMode := (if s.cur.op = 0x01 then .normal else s.baudMode), phase := .idle }

/-- CTRL's completion step, `complete()` (R131): a timed-out frame is neither decoded nor compared (R138, R243). -/
def completeStep (s : State) : Host.Outcome State Fault Refusal :=
  if canComplete s then
    if s.frCnt = s.frN.toNat then finish s.cur (echoes s) (restoreIdle s)
    else .next (raise s.cur.req .readTimeout 0x00 (restoreIdle s))
  else .next s

end Sys2Proof.Machine
end

