-- ==== Sys2Proof/Machine/HostProgram.lean ====
section
/-! DEFINITION. HOST(h): free placement of words (R34), and the host programs of 44_host_transactions.md with their
helpers, the two transactions, and the temperature decode. -/

namespace Sys2Proof.Machine

/-! ## Variables, words and values -/

/-- `$b[k]` as the program reads it; an unassigned variable reads a free value (log 10). -/
def readVar (turn k : Nat) (p : HostProc) : Byte :=
  match (p.buf[k]?).join with
  | some v => v
  | none => Config.freeHostByte turn k

/-- `$b[k] <- v`. -/
def assignVar {α : Type} (k : Nat) (v : α) (buf : List (Option α)) : List (Option α) :=
  (buf ++ List.replicate (k + 1 - buf.length) none).set k (some v)

/-- The operand's byte, a variable's being "the variable's current byte value" (R78). -/
def operandByte (turn : Nat) (p : HostProc) : Operand → Byte
  | .imm v => v
  | .var k => readVar turn k p
  | .data => p.d
  | .err => p.err.setWidth 8

/-- The command a host command issues (R78, R201). -/
def hostInstr (turn : Nat) (p : HostProc) : HostCmd → Instr
  | .reset => .reset
  | .wrbit b => .wrbit b
  | .rdbit => .rdbit
  | .wrbyte v => .wrbyte (operandByte turn p v)
  | .rdbyte => .rdbyte
  | .crcclr => .crcclr
  | .crcfeed d => .crcfeed (operandByte turn p d)
  | .crcchk => .crcchk
  | .acquire => .acquire
  | .release => .release

/-- The mnemonic of a command as a host program writes it (R78). -/
def hostMnemonic : HostCmd → Mnemonic
  | .reset => .reset
  | .wrbit _ => .wrbit
  | .rdbit => .rdbit
  | .wrbyte _ => .wrbyte
  | .rdbyte => .rdbyte
  | .crcclr => .crcclr
  | .crcfeed _ => .crcfeed
  | .crcchk => .crcchk
  | .acquire => .acquire
  | .release => .release

/-- A command of the block as a host program writes it, its operand a constant. -/
def instrCmd : Instr → HostCmd
  | .reset => .reset
  | .wrbit b => .wrbit b
  | .rdbit => .rdbit
  | .wrbyte v => .wrbyte (.imm v)
  | .rdbyte => .rdbyte
  | .crcclr => .crcclr
  | .crcfeed d => .crcfeed (.imm d)
  | .crcchk => .crcchk
  | .acquire => .acquire
  | .release => .release

/-- The command that `ISSUE w` issues; none for an illegal word (R76). -/
def issuedCmd : IssuedWord → Option HostCmd
  | .cmd c => some c
  | .word w =>
    match decode w with
    | .ok i => some (instrCmd i)
    | .error _ => none

/-- The mnemonic of the command a statement issues; none where it issues nothing or an illegal word. -/
def stmtMnemonic : HostStmt → Option Mnemonic
  | .bang c => some (hostMnemonic c)
  | .issue w => (issuedCmd w).map hostMnemonic
  | .readByte _ => some .rdbyte
  | .bind _ => none
  | .delay _ => none
  | .temp => none
  | .abort _ => none
  | .ret _ => none

/-- The word that `ISSUE w` places (R201). -/
def issuedWord (turn : Nat) (p : HostProc) : IssuedWord → Word
  | .cmd c => encode (hostInstr turn p c)
  | .word w => w

/-- The error that `abort(E)` ends with (R201). -/
def abortError (p : HostProc) : AbortCode → Nibble
  | .code e => e
  | .err => p.err

/-- `raw` of R211: `sext_16({sp[1], sp[0]})`, a signed little-endian 16-bit integer (R54). -/
def rawTemperature (b0 b1 : Byte) : Int := (b1 ++ b0 : BitVec 16).toInt

/-- `temp` of R211 in degrees Celsius: the exact rational `raw / 16`. -/
def degrees (sixteenths : Int) : Rat := (sixteenths : Rat) / 16

/-- The value that `return` evaluates (R201). -/
def returnValue (turn : Nat) (p : HostProc) : ReturnKind → TxValue
  | .unit => .unit
  | .bytes n => .bytes ((List.range n).map fun k => readVar turn k p)
  | .temperature => .temperature (p.temp.getD (Config.freeHostTemp turn))

/-! ## Helpers and transactions -/

/-- `READBYTES n -> $b[0..n-1]`: "n statements, for k = 0 .. n-1" (R203). -/
def readBytes (n : Nat) : List HostStmt := (List.range n).map .readByte

/-- `CHECKFRAME $b[0..n-1]` (R204). -/
def checkFrame (n : Nat) : List HostStmt :=
  .bang .crcclr :: ((List.range n).map fun k => .bang (.crcfeed (.var k))) ++ [.bang .crcchk]

/-- `READROM -> $rom[0..7]` (R206). -/
def readRom : List HostStmt :=
  [.bang .acquire, .bang .reset, .bang (.wrbyte (.imm 0x33))] ++ readBytes 8 ++ checkFrame 8 ++ [.ret (.bytes 8)]

/-- `READTEMP -> $t`: phase 1 (R207), the conversion delay (R208), phase 2 (R209). -/
def readTemp : List HostStmt :=
  [.bang .acquire, .bang .reset, .bang (.wrbyte (.imm 0xCC)), .bang (.wrbyte (.imm 0x44)), .delay tConvMs,
   .bang .reset, .bang (.wrbyte (.imm 0xCC)), .bang (.wrbyte (.imm 0xBE))] ++ readBytes 9 ++ checkFrame 9 ++
  [.temp, .ret .temperature]

/-! ## The discipline of a transaction (R202) -/

/-- The bus commands (R25). -/
def isBusMnemonic : Mnemonic → Bool
  | .reset => true
  | .wrbit => true
  | .rdbit => true
  | .wrbyte => true
  | .rdbyte => true
  | .crcclr => false
  | .crcfeed => false
  | .crcchk => false
  | .acquire => false
  | .release => false

/-- The statement issues a bus command. -/
def stmtIsBus (st : HostStmt) : Bool := (stmtMnemonic st).any isBusMnemonic

/-- The statement ends the program (R201). -/
def stmtEnds : HostStmt → Bool
  | .abort _ => true
  | .ret _ => true
  | .issue _ => false
  | .bang _ => false
  | .readByte _ => false
  | .bind _ => false
  | .delay _ => false
  | .temp => false

/-- The statements a program can execute: up to the first that ends it. -/
def livePart : List HostStmt → List HostStmt
  | [] => []
  | st :: rest => if stmtEnds st then [st] else st :: livePart rest

/-- Bytes of a program, each by the number of the `RDBYTE` that read it from the device; none for every other byte: a
constant, `$err`, the data of another command, or a variable that the program has not assigned (log 10). -/
abbrev Frame := List (Option Nat)

/-- The bytes of a whole device frame: each was read, "one call per byte, in order" (R203), the numbers leaving no gap. -/
def isDeviceFrame (f : Frame) : Bool :=
  match f.head? with
  | some (some first) => f == (List.range f.length).map fun k => some (first + k)
  | _ => false

/-- What is known at a point of a program that has met no error (R202, items 3 and 5; log 23). -/
structure Checked where
  /-- The program holds the lock. -/
  locked : Bool
  /-- The number of the next bus command: each moves it on, and so does RELEASE. -/
  count : Nat
  /-- `$d`, where it is a byte read from the device. -/
  data : Option Nat
  /-- `$b[k]`, as far as the program has assigned it. -/
  vars : List (Option (Option Nat))
  /-- The frames whose crc8 is `crc_acc`: what was fed since each point at which `crc_acc` was 0x00. -/
  fed : List Frame
  /-- The device frames that have passed their check. -/
  passed : List Frame
  /-- The two bytes that `$t` was decoded from. -/
  temp : Frame
  deriving DecidableEq, Repr

/-- At a program's start nothing is assigned, held or checked. -/
def Checked.start : Checked :=
  { locked := false, count := 0, data := none, vars := [], fed := [], passed := [], temp := [none, none] }

/-- `$b[k]` as it stands. -/
def Checked.var (c : Checked) (k : Nat) : Option Nat := ((c.vars[k]?).join).join

/-- `$b[0..n-1]` as they stand. -/
def Checked.bytes (c : Checked) (n : Nat) : Frame := (List.range n).map c.var

/-- The byte an operand reads. -/
def Checked.operand (c : Checked) : Operand → Option Nat
  | .imm _ => none
  | .var k => c.var k
  | .data => c.data
  | .err => none

/-- `$b[k] <- $d`. -/
def Checked.assign (k : Nat) (c : Checked) : Checked := { c with vars := assignVar k c.data c.vars }

/-- A command answered OK (R103 to R105, R154, R181, R182). Without the lock another requester's commands may fall in
between (R185, R186). -/
def Checked.command (cmd : HostCmd) (c : Checked) : Checked :=
  let c' : Checked := { c with data := none }
  match cmd with
  | .reset => { c' with count := c.count + 1 }
  | .wrbit _ => { c' with count := c.count + 1 }
  | .rdbit => { c' with count := c.count + 1 }
  | .wrbyte _ => { c' with count := c.count + 1 }
  | .rdbyte => { c' with count := c.count + 1, data := if c.locked then some c.count else none }
  | .crcclr => { c' with fed := if c.locked then [[]] else [] }
  | .crcfeed d => { c' with fed := c.fed.map (· ++ [c.operand d]) }
  | .crcchk =>
    { c' with fed := if c.locked then [] :: c.fed else [], passed := c.passed ++ c.fed.filter isDeviceFrame }
  | .acquire => { c' with locked := true }
  | .release => { c' with locked := false, count := c.count + 1, fed := [] }

/-- One statement of a program that has met no error. -/
def Checked.stmt (c : Checked) : HostStmt → Checked
  | .bang cmd => c.command cmd
  | .issue w =>
    match issuedCmd w with
    | some cmd => c.command cmd
    | none => c
  | .readByte k => (c.command .rdbyte).assign k
  | .bind k => c.assign k
  | .temp => { c with temp := c.bytes 2 }
  | .delay _ => c
  | .abort _ => c
  | .ret _ => c

/-- The frames passed that begin with these very bytes. -/
def Checked.passedFrom (c : Checked) (bytes : Frame) : List Frame := c.passed.filter bytes.isPrefixOf

/-- The value is returned only after its CRC check has passed: for a temperature that of a 9-byte scratchpad (R210)
(R202, item 5; log 23). -/
def valueChecked (c : Checked) : ReturnKind → Bool
  | .unit => true
  | .bytes n => !(c.passedFrom (c.bytes n)).isEmpty
  | .temperature => (c.passedFrom c.temp).any fun f => f.length == 9

/-- The errors a command can be answered with (R240's last column); the owner's RELEASE has none (R182). -/
def cmdErrors (locked : Bool) : HostCmd → List ErrCode
  | .reset => [.noDevice, .shortCircuit, .presence, .readTimeout]
  | .wrbit _ => [.readTimeout, .responseMismatch]
  | .rdbit => [.readTimeout]
  | .wrbyte _ => [.readTimeout, .responseMismatch]
  | .rdbyte => [.readTimeout]
  | .crcclr => []
  | .crcfeed _ => []
  | .crcchk => [.crc]
  | .acquire => []
  | .release => if locked then [] else [.notOwner]

/-- The errors that the program itself must act on: an ISSUE's, since a `!` aborts by itself (R201). -/
def stmtErrors (c : Checked) : HostStmt → List ErrCode
  | .issue w =>
    match issuedCmd w with
    | some cmd => cmdErrors c.locked cmd
    | none => [.illegal]
  | .bang _ => []
  | .readByte _ => []
  | .bind _ => []
  | .delay _ => []
  | .temp => []
  | .abort _ => []
  | .ret _ => []

/-- Whichever of these errors `$err` holds, the statements abort with it, and issue nothing before. -/
def abortsWith (errs : List ErrCode) : List HostStmt → Bool
  | [] => false
  | st :: rest =>
    match st with
    | .abort .err => true
    | .abort (.code e) => errs.all fun err => err.code == e
    | .bind _ => abortsWith errs rest
    | .delay _ => abortsWith errs rest
    | .temp => abortsWith errs rest
    | .issue _ => false
    | .bang _ => false
    | .readByte _ => false
    | .ret _ => false

/-- The statements abort at the first error with that error, and return only a value that is checked (R202, items 3 and
5). -/
def obeys (c : Checked) : List HostStmt → Bool
  | [] => true
  | st :: rest =>
    (stmtErrors c st == [] || abortsWith (stmtErrors c st) rest) &&
      (match st with
        | .ret k => valueChecked c k
        | _ => true) &&
      obeys (c.stmt st) rest

/-- The discipline of R202: the program begins with `ACQUIRE!`; `RESET!` is its first bus command; it ends with `return` or
`abort`; and it aborts at its first error and returns no unchecked value (log 23). -/
def disciplined (prog : List HostStmt) : Bool :=
  let live := livePart prog
  (live.head? == some (.bang .acquire)) &&
    (live.find? stmtIsBus == some (.bang .reset)) &&
    live.getLast?.any stmtEnds &&
    obeys Checked.start live

/-! ## The host's steps -/

/-- The host has ended its program, or never began one. -/
def hostAtRest (p : HostProc) : Bool :=
  match p.ctl with
  | .idle => true
  | .done _ => true
  | _ => false

/-- A host that runs no program places any word it likes, where R34 lets it (log 14). -/
def place (h : Nat) (w : Word) (s : State) : State :=
  updReq h (fun r => if canPlace r && hostAtRest r.host then placeWord w r else r) s

/-- HOST(h) begins a program at its first statement (R200). `$d` and `$err` have no value before the first response, so they
are free (log 10). -/
def startProgram (h : Nat) (prog : List HostStmt) (s : State) : State :=
  updReq h
    (fun r =>
      if hostAtRest r.host then
        { r with host := { HostProc.none with
            prog := prog, ctl := .run, err := Config.freeHostErr s.turn, d := Config.freeHostByte s.turn 0 } }
      else r)
    s

/-- On to the next statement: "advances by one per statement" (R200). -/
def nextStmt (p : HostProc) : HostProc := { p with idx := p.idx + 1, ctl := .run }

/-- Place a word for a host statement and wait for its response; wait in place until R34 allows it (R201). -/
def issueWord (w : Word) (after : HostCtl) (r : Requester) : Requester :=
  if canPlace r then { placeWord w r with host := { r.host with ctl := after } } else r

/-- Execute the statement at `idx` (R201). A program with no statement left stops there, unended (log 14). -/
def hostStmt (turn : Nat) (ps : Params) (r : Requester) : Requester :=
  match r.host.prog[r.host.idx]? with
  | none => { r with host := { r.host with ctl := .ranOut } }
  | some (.issue w) => issueWord (issuedWord turn r.host w) (.await false) r
  | some (.bang c) => issueWord (encode (hostInstr turn r.host c)) (.await true) r
  | some (.readByte _) => issueWord (encode .rdbyte) (.await true) r
  | some (.bind k) => { r with host := nextStmt { r.host with buf := assignVar k r.host.d r.host.buf } }
  | some (.delay ms) => { r with host := { r.host with ctl := .delay (ms * ps.ticksPerMs) } }
  | some .temp =>
    { r with host := nextStmt { r.host with
        temp := some (rawTemperature (readVar turn 0 r.host) (readVar turn 1 r.host)) } }
  | some (.abort e) => { r with host := { r.host with ctl := .abort (abortError r.host e) } }
  | some (.ret k) => issueWord (encode .release) (.awaitReturn (returnValue turn r.host k)) r

/-- What an OK answer to a command says of the lock: held after ACQUIRE, free after RELEASE (R181, R182). -/
def lockAfterOk : Mnemonic → Option Bool
  | .acquire => some true
  | .release => some false
  | .reset => none
  | .wrbit => none
  | .rdbit => none
  | .wrbyte => none
  | .rdbyte => none
  | .crcclr => none
  | .crcfeed => none
  | .crcchk => none

/-- Whether the transaction holds the lock once the statement at `idx` is answered with e: ACQUIRE and RELEASE
change it when answered OK (R181, R182, R201; log 21). -/
def holdsAfter (p : HostProc) (e : ErrCode) : Bool :=
  if e = .ok then (((p.prog[p.idx]?).bind stmtMnemonic).bind lockAfterOk).getD p.holds else p.holds

/-- READBYTES binds its byte when it is answered: `$b[k] <- $d` (R203). -/
def bindRead (p : HostProc) : HostProc :=
  match p.prog[p.idx]? with
  | some (.readByte k) => { p with buf := assignVar k p.d p.buf }
  | _ => p

/-- Take the response to the word of an `ISSUE` or a `!` statement: bind `$err` and `$d`, then `abort($err)` or go on (R201). -/
def takeResponse (bang : Bool) (e : ErrCode) (d : Byte) (p : HostProc) : HostProc :=
  let p' := { p with err := e.code, d := d, holds := holdsAfter p e }
  if bang && e != .ok then { p' with ctl := .abort e.code } else nextStmt (bindRead p')

/-- What a host does with the response it has been waiting for (R201). -/
def onResponse (e : ErrCode) (d : Byte) (p : HostProc) : HostProc :=
  match p.ctl with
  | .await bang => takeResponse bang e d p
  | .awaitAbort e0 => { p with ctl := .done (.error e0), holds := false }
  | .awaitReturn v =>
    { p with ctl := .done (match e with | .ok => .value v | _ => .error e.code), holds := false }
  | _ => p

/-- One step of the waiting host: nothing until the response is there; a reserved code faults (93 U4). -/
def hostAwait (r : Requester) : Except Fault Requester :=
  match r.inbox with
  | none => .ok r
  | some rsp =>
    match ErrCode.ofCode rsp.err with
    | none => .error .reservedErrorCode
    | some e => .ok { r with inbox := none, host := onResponse e rsp.data r.host }

/-- One step of requester r's host program. -/
def hostRun (turn : Nat) (ps : Params) (r : Requester) : Except Fault Requester :=
  match r.host.ctl with
  | .idle => .ok r
  | .ranOut => .ok r
  | .done _ => .ok r
  | .run => .ok (hostStmt turn ps r)
  | .await _ => hostAwait r
  | .awaitAbort _ => hostAwait r
  | .awaitReturn _ => hostAwait r
  | .delay 0 => .ok { r with host := nextStmt r.host }
  | .delay (_ + 1) => .ok r
  | .abort e =>
    if r.host.holds then .ok (issueWord (encode .release) (.awaitAbort e) r)
    else .ok { r with host := { r.host with ctl := .done (.error e) } }

/-- HOST(h)'s step of its host program (R200). -/
def hostStep (h : Nat) (s : State) : Host.Outcome State Fault Refusal :=
  match s.reqs[h]? with
  | none => .next s
  | some r =>
    match hostRun s.turn s.params r with
    | .ok r' => .next (updReq h (fun _ => r') s)
    | .error f => .fault f

/-! ## The transaction state machine (R214) -/

/-- The states of R214. -/
inductive TxState where
  | idle | reset | commands | awaitingConversion | dataExchange | validate | success | failed
  deriving DecidableEq, Repr

/-- The state a command's statement belongs to (R214's table). -/
def cmdTxState : Mnemonic → TxState
  | .acquire => .reset
  | .reset => .reset
  | .wrbit => .commands
  | .wrbyte => .commands
  | .rdbit => .dataExchange
  | .rdbyte => .dataExchange
  | .crcclr => .validate
  | .crcfeed => .validate
  | .crcchk => .validate
  | .release => .success

/-- The state a statement belongs to (R214's table); an illegal word's is `Command(s)` (log 16). -/
def stmtTxState (st : HostStmt) : TxState :=
  match st with
  | .issue _ => ((stmtMnemonic st).map cmdTxState).getD .commands
  | .bang _ => ((stmtMnemonic st).map cmdTxState).getD .commands
  | .readByte _ => .dataExchange
  | .bind _ => .dataExchange
  | .delay _ => .awaitingConversion
  | .temp => .validate
  | .abort _ => .failed
  | .ret _ => .success

/-- The state of the statement at the index, or past the end that of the last one. -/
def txStateAtIdx (p : HostProc) : TxState :=
  match p.prog[p.idx]? with
  | some st => stmtTxState st
  | none => (p.prog.getLast?.map stmtTxState).getD .idle

/-- The state of a transaction (R214): `Idle` before statement 1, `Failed` on "any `abort`" (log 16). -/
def txState (p : HostProc) : TxState :=
  match p.ctl with
  | .idle => .idle
  | .abort _ => .failed
  | .awaitAbort _ => .failed
  | .awaitReturn _ => .success
  | .done (.error _) => .failed
  | .done (.value _) => .success
  | .run => if p.idx = 0 then .idle else txStateAtIdx p
  | .await _ => txStateAtIdx p
  | .delay _ => txStateAtIdx p
  | .ranOut => txStateAtIdx p

end Sys2Proof.Machine
end

