-- ==== Sys2Proof/Machine/Line.lean ====
section
/-! DEFINITION. The line's agents LINE_TX and LINE_RX, the TIMER, and the passing of time (41_bitcodec.md R124,
R128 to R133). A step that is not enabled leaves the state as it is. -/

namespace Sys2Proof.Machine

/-- `baud_sel`, the line output that tells the Transport which of its two rates to use (R21). -/
def baudSel (s : State) : BaudMode := s.baudMode

/-- LINE_TX (R128): the head of the queue leaves at the rate of `baud_mode`. -/
def lineTx (s : State) : State :=
  match s.txq with
  | b :: rest => record (.tx b s.baudMode) { s with txq := rest }
  | [] => s

/-- ECHO_MODEL admits e as the next byte of the frame (R124): under WIRED_AND, `e & ~p = 0x00` for the pattern p
of the same position. -/
def echoAdmitted (s : State) (e : Byte) : Bool :=
  match s.params.echoModel with
  | .any => true
  | .wiredAnd =>
    match (framePatterns s.cur)[s.frCnt]? with
    | some p => (e &&& ~~~p) == 0x00
    | none => true

/-- LINE_RX (R129, R130): an open frame takes the byte; otherwise it is dropped, and only `hist` is written. A byte
that ECHO_MODEL does not admit is no draw the environment can make, and nothing arrives (log 11). -/
def lineRx (e : Byte) (s : State) : State :=
  if frameOpen s then
    if echoAdmitted s e then
      record (.rx e true) { s with frBuf := s.frBuf.setIfInBounds s.frCnt e, frCnt := s.frCnt + 1 }
    else s
  else record (.rx e false) s

/-- The timing condition of R133: under TIMED, T_READ has elapsed since `arm`. -/
def boundReached (s : State) : Bool :=
  match s.params.timeoutModel with
  | .untimed => true
  | .timed => decide (s.params.tRead ≤ s.frTimer)

/-- TIMER (R132). -/
def timer (s : State) : State :=
  if frameOpen s && boundReached s then record .expire { s with frExpired := true } else s

/-- A host in `DELAY` counts one tick down (R201, R208). -/
def tickHost (p : HostProc) : HostProc :=
  match p.ctl with
  | .delay (n + 1) => { p with ctl := .delay n }
  | _ => p

/-- One tick passes: the T_READ timer of an open frame counts it (R133, R249), and so does each host's DELAY. Under
TIMED no time passes beyond an open frame's bound before TIMER fires, which is what "exactly" asks (R133). -/
def tick (s : State) : State :=
  if frameOpen s && (s.params.timeoutModel == .timed) && decide (s.params.tRead ≤ s.frTimer) then s
  else
    { s with
      frTimer := (if frameOpen s then s.frTimer + 1 else s.frTimer)
      reqs := s.reqs.map fun r => { r with host := tickHost r.host } }

end Sys2Proof.Machine
end

