-- ==== Sys2Proof/Machine/Platform.lean ====
section
/-! DEFINITION. PLATFORM: block reset and line-ready (70_reset_and_hazards.md R270 to R275). -/

namespace Sys2Proof.Machine

/-- Block reset (R270, R37), at any time and in one step. `cur`, `fr_n` and `fr_buf` are unspecified after it, so
each takes a free value (log 5). The host side of the requesters is outside the block and is not reset (R272). -/
def blockReset (s : State) : State :=
  record .reset
    { s with
      baudMode := .normal
      ready := false
      phase := .idle
      cur := ⟨Config.freeCurReq s.turn, Config.freeCurOp s.turn, Config.freeCurArg s.turn⟩
      txq := []
      frArmed := false
      frN := (if Config.freeFrameIsEight s.turn then .eight else .one)
      frCnt := 0
      frBuf := Config.freeFrameBuf s.turn
      frExpired := false
      frTimer := 0
      crcAcc := 0x00
      lockOwner := none
      reqs := s.reqs.map fun r => { r with slot := none, waiting := false } }

/-- Line-ready (R274): `ready <- true`, enabled when `ready = false`. -/
def lineReady (s : State) : State := { s with ready := true }

end Sys2Proof.Machine
end

