-- ==== Sys2Proof/Machine/Agents.lean ====
section
/-! DEFINITION. One step of one agent (00_scope.md R6). -/

namespace Sys2Proof.Machine

/-- The agent step a. A step that is not enabled in s leaves it as it is. -/
def runAction (a : Action) (s : State) : Host.Outcome State Fault Refusal :=
  match a with
  | .place h w => .next (place h w s)
  | .start h prog => .next (startProgram h prog s)
  | .host h => hostStep h s
  | .accept h => acceptStep h s
  | .complete => completeStep s
  | .lineTx => .next (lineTx s)
  | .lineRx e => .next (lineRx e s)
  | .timer => .next (timer s)
  | .tick => .next (tick s)
  | .lineReady => .next (lineReady s)
  | .blockReset => .next (blockReset s)

end Sys2Proof.Machine
end

