-- ==== Sys2Proof/Machine/Step.lean ====
section
/-! DEFINITION. The step of the whole machine, and where it takes its next command from. -/

namespace Sys2Proof.Machine

/-- One step: the next agent step of the schedule, or a free one (R6; log 1). -/
def step (s : State) : Host.Outcome State Fault Refusal := runAction (nextAction s) (advance s)

/-- The requester that `withFetchWord` places the word for: the lock's owner, or requester 0 when it is free. -/
def fetchRequester (s : State) : Nat := s.lockOwner.getD 0

/-- The word placed for its requester, with CTRL's turn to it next (log 12). -/
def placeFetched (w : Word) (s : State) : State :=
  let h := fetchRequester s
  let rs := s.reqs ++ List.replicate (h + 1 - s.reqs.length) Requester.fresh
  { s with
    ready := true
    phase := .idle
    reqs := rs.modify h (fun r => { r with slot := some w })
    sched := .accept h :: s.sched }

/-- `s` with the word `w` of a 16-bit row placed where `step` takes its next command from: in the command slot of a
requester that R180 admits, with the line ready, the block idle and CTRL's acceptance of it the next step. This stands
for the host's placing it, since the block fetches nothing (R32, R271; log 12). A partial word is refused, as R57 says:
nothing is placed. -/
def State.withFetchWord (s : State) (nbits w : Nat) : State :=
  if nbits = 16 ∧ w < 65536 then placeFetched (BitVec.ofNat 16 w) s else s

end Sys2Proof.Machine
end

