-- ==== Sys2Proof/Safety.lean ====
section
/-! DEFINITION. What the claims are stated in: the machine's invariant, runs of several steps, what a bus command
answers, the accounting of commands and responses in `hist`, the end of a run (R283) and fair runs (R8). -/

namespace Sys2Proof.Machine

/-! ## Bus commands -/

/-- The frame length of a bus command; `none` for a command that completes in its acceptance step (R25, R28). -/
def busFrame : Instr → Option FrameLen
  | .reset => some .one
  | .wrbit _ => some .one
  | .rdbit => some .one
  | .wrbyte _ => some .eight
  | .rdbyte => some .eight
  | .crcclr => none
  | .crcfeed _ => none
  | .crcchk => none
  | .acquire => none
  | .release => none

/-- The error code and data byte a bus command answers for the echoes of its full frame (R241's table, rows RESET
to RDBYTE). -/
def busAnswer (i : Instr) (es : List Byte) : Response :=
  match i with
  | .reset =>
    if es.headD 0 = 0xF0 then ⟨1, 0xF0⟩
    else if es.headD 0 = 0x00 then ⟨2, 0x00⟩
    else if 0x10 ≤ (es.headD 0).toNat ∧ (es.headD 0).toNat ≤ 0xE0 then ⟨0, es.headD 0⟩
    else ⟨3, es.headD 0⟩
  | .wrbit true => if es.headD 0 = 0xFF then ⟨0, 1⟩ else ⟨5, 0⟩
  | .wrbit false => if es.headD 0 = 0xFF then ⟨5, 1⟩ else ⟨0, 0⟩
  | .rdbit => if es.headD 0 = 0xFF then ⟨0, 1⟩ else ⟨0, 0⟩
  | .wrbyte v => if assemble es = v then ⟨0, v⟩ else ⟨5, assemble es⟩
  | _ => ⟨0, assemble es⟩

/-- A bus command of the given op in execution with its queue sent and its n-byte frame full (R131). -/
def fullFrame (s : State) (op : Byte) (n : FrameLen) : Prop :=
  s.phase = .xfer ∧ s.txq = [] ∧ s.cur.op = op ∧ s.frN = n ∧ s.frCnt = n.toNat

/-- The state in which a bus command has completed: the frame disarmed, the block idle at the given rate, and the
response delivered to `cur.req`; every other field as before (R131, R134, R245). -/
def completed (s : State) (mode : BaudMode) (err : Nibble) (data : Byte) : State :=
  { s with
    phase := .idle
    baudMode := mode
    frArmed := false
    frCnt := 0
    frExpired := false
    frTimer := 0
    reqs := s.reqs.modify s.cur.req (fun r => { r with waiting := false, inbox := some ⟨err, data⟩ })
    hist := s.hist ++ [.rsp s.cur.req err data] }

/-- The requesters once h's word has been accepted and answered with the pair given. -/
def answeredReqs (s : State) (h : Nat) (err : Nibble) (data : Byte) : List Requester :=
  s.reqs.modify h (fun r => { r with slot := none, waiting := false, inbox := some ⟨err, data⟩ })

/-- The state in which a bus command of requester `s.reqId` has been accepted (R137). -/
def accepted (s : State) (op arg : Byte) (n : FrameLen) (bytes : List Byte) (mode : BaudMode) : State :=
  { s with
    phase := .xfer
    cur := ⟨s.reqId, op, arg⟩
    baudMode := mode
    frArmed := true
    frN := n
    frCnt := 0
    frExpired := false
    frTimer := 0
    txq := s.txq ++ bytes
    reqs := s.reqs.modify s.reqId (fun r => { r with slot := none, waiting := true })
    hist := s.hist ++ [.cmd s.reqId (mkWord op arg)] }

/-! ## The invariant -/

/-- What every reachable state satisfies (R35, and the constraints of 10_state.md and 43_lock.md). -/
structure Inv (s : State) : Prop where
  /-- R35. -/
  idle_quiet : s.phase = .idle →
    s.baudMode = .normal ∧ s.frArmed = false ∧ s.frCnt = 0 ∧ s.frExpired = false ∧ s.txq = []
  /-- R25, R28: in XFER the frame of the command in execution is armed. -/
  xfer_armed : s.phase = .xfer → s.frArmed = true
  /-- R26: in XFER, `cur` holds a legal bus command, and the frame has its length (R137). -/
  xfer_latch : s.phase = .xfer →
    ∃ i, busFrame i = some s.frN ∧ encode i = mkWord s.cur.op s.cur.arg
  /-- R27: in XFER the queue holds the patterns of the frame not sent yet. -/
  xfer_queue : s.phase = .xfer → s.txq <:+ framePatterns s.cur
  /-- R28: `fr_cnt <= fr_n` always. -/
  count_le : s.frCnt ≤ s.frN.toNat
  /-- R131: a frame is never both expired and full. -/
  expired_short : s.frExpired = true → s.frCnt < s.frN.toNat
  /-- R23, R152, R278: the reset rate is selected exactly while a RESET is in execution. -/
  rate : s.baudMode = .reset ↔ (s.phase = .xfer ∧ s.cur.op = 0x01)
  /-- R34, R245: exactly the requester of the command in execution waits. -/
  waits : ∀ h, waitingOf h s = true ↔ (s.phase = .xfer ∧ s.cur.req = h)
  /-- R34: "each requester has at most one command outstanding". -/
  one_outstanding : ∀ h, waitingOf h s = true → slotOf h s = none
  /-- R30: the owner is a requester. -/
  owner_exists : ∀ o, s.lockOwner = some o → o < nReq s
  /-- R180: while the lock is owned, the command in execution is the owner's. -/
  owner_runs : s.phase = .xfer → ∀ o, s.lockOwner = some o → o = s.cur.req
  /-- R24, R271: until line-ready the block is as reset left it. -/
  unready : s.ready = false → s.phase = .idle ∧ s.crcAcc = 0x00 ∧ s.lockOwner = none
  /-- R240: no reserved code is ever delivered. -/
  codes : ∀ r ∈ s.reqs, ∀ p, r.inbox = some p → p.err.toNat ≤ 8
  /-- R133: under TIMED the timer never runs past the bound. -/
  bound : s.params.timeoutModel = .timed → s.frTimer ≤ s.params.tRead
  /-- 00_scope.md §4: N_REQ >= 1. -/
  some_requester : 0 < nReq s

/-! ## Runs -/

/-- k steps of the machine, stopping where it stops. -/
def runSteps : Nat → State → Host.Outcome State Fault Refusal
  | 0, s => .next s
  | k + 1, s =>
    match step s with
    | .next t => runSteps k t
    | .fault f => .fault f
    | .refused r => .refused r

/-- The acceptances of a list of commands, one after another, stopping where one stops. -/
def execAll : List Instr → State → Host.Outcome State Fault Refusal
  | [], s => .next s
  | i :: is, s =>
    match exec i s with
    | .next t => execAll is t
    | .fault f => .fault f
    | .refused r => .refused r

/-- The bytes that a list of agent steps delivers on the line. -/
def rxBytes : List Action → List Byte
  | [] => []
  | .lineRx e :: rest => e :: rxBytes rest
  | _ :: rest => rxBytes rest

/-- A step of LINE_TX or LINE_RX. -/
def isLineStep : Action → Bool
  | .lineTx => true
  | .lineRx _ => true
  | _ => false

/-! ## The history (R36) -/

/-- One event in the count of requester h's accepted commands not answered yet. Block reset abandons the command in
execution (R272). -/
def tally (h : Nat) (n : Int) : Event → Int
  | .cmd h' _ => if h' = h then n + 1 else n
  | .rsp h' _ _ => if h' = h then n - 1 else n
  | .reset => 0
  | .tx _ _ => n
  | .rx _ _ => n
  | .expire => n

/-- The commands of requester h accepted since the last block reset and not answered yet, as `hist` shows them. -/
def outstanding (h : Nat) (es : List Event) : Int := es.foldl (tally h) 0

/-- Each accepted command has exactly one response, or is the one still in execution (R245). -/
def Accounted (s : State) : Prop :=
  ∀ h, outstanding h s.hist = if waitingOf h s then 1 else 0

/-- An event that shows a byte of an exchange: a byte sent, or a byte taken into a frame (R186). -/
def exchangeEvent : Event → Bool
  | .tx _ _ => true
  | .rx _ taken => taken
  | _ => false

/-! ## The end of a run, and fairness -/

/-- The host's program, if it began one, has executed `return` or `abort`, and its final RELEASE is answered (R283). -/
def programEnded (p : HostProc) : Bool :=
  match p.ctl with
  | .idle => true
  | .done _ => true
  | .run => false
  | .await _ => false
  | .delay _ => false
  | .abort _ => false
  | .awaitAbort _ => false
  | .awaitReturn _ => false
  | .ranOut => false

/-- "A run of a set of host programs has ended" (R283): each program begun has ended, the block is idle, and no word is
placed or waits for its response. -/
def runEnded (s : State) : Bool :=
  (s.phase == .idle) && s.reqs.all fun r => r.slot.isNone && !r.waiting && programEnded r.host

/-- An infinite run of the machine in which the n-th step is the agent step `a n` (R6; log 1). -/
def IsRun (a : Nat → Action) (r : Nat → State) : Prop :=
  ∀ n, step { r n with sched := [a n] } = .next (r (n + 1))

/-- LINE_TX is weakly fair: "a non-empty `txq` is eventually sent" (R8). -/
def FairLineTx (a : Nat → Action) (r : Nat → State) : Prop := ∀ n, (r n).txq ≠ [] → ∃ m, n ≤ m ∧ a m = .lineTx

/-- TIMER is weakly fair: "an incomplete armed frame eventually expires" (R8): it expires, or it ends otherwise. -/
def FairTimer (r : Nat → State) : Prop := ∀ n, frameOpen (r n) = true → ∃ m, n ≤ m ∧ frameOpen (r m) = false

end Sys2Proof.Machine
end

