-- ==== Sys2Proof/Certificates/Slice0/Obligations.lean ====
section
/-! DEFINITION. The statements for the provers, from the spec's numbered rules. Next states are written as plain
records, so that each statement names every field that changes and leaves every other field as it was. -/

open Sys2Proof Sys2Proof.Machine

/-! ## Encoding (30_encoding.md) -/

/-- R72, R73, R77: decoding the word of a command gives the command back, at every operand value. -/
def Obligations.DecodeOfEncode : Prop :=
  ∀ i : Instr, i.wellFormed = true → decode (encode i) = .ok i

/-- R74, R77: a legal word has no bit that its command does not fix. -/
def Obligations.EncodeOfDecode : Prop :=
  ∀ (w : Word) (i : Instr), decode w = .ok i → encode i = w

/-- R72: a word selects a command exactly when `(w & mask) == match`; the rows are disjoint; the operands are the
fields its table names. -/
def Obligations.OpcodeMapSelects : Prop :=
  (∀ (w : Word) (m : Mnemonic) (pattern mask : Word),
    (m, pattern, mask) ∈
      [(Mnemonic.reset, (0x0100 : Word), (0xFFFF : Word)), (.wrbit, 0x0200, 0xFFFE), (.rdbit, 0x0300, 0xFFFF),
       (.wrbyte, 0x0400, 0xFF00), (.rdbyte, 0x0500, 0xFFFF), (.crcclr, 0x0800, 0xFFFF),
       (.crcfeed, 0x0900, 0xFF00), (.crcchk, 0x0A00, 0xFFFF), (.acquire, 0x0C00, 0xFFFF),
       (.release, 0x0D00, 0xFFFF)] →
    ((∃ i, decode w = .ok i ∧ i.mnemonic = m) ↔ w &&& mask = pattern)) ∧
  (∀ (w : Word) (r r' : OpRow), r ∈ opRows → r' ∈ opRows → r.selects w = true → r'.selects w = true → r = r') ∧
  (∀ (w : Word) (b : Bool), decode w = .ok (.wrbit b) → b = w.getLsbD 0) ∧
  (∀ (w : Word) (v : Byte), decode w = .ok (.wrbyte v) → v = w.setWidth 8) ∧
  (∀ (w : Word) (d : Byte), decode w = .ok (.crcfeed d) → d = w.setWidth 8)

/-- R75 and R74: exactly the words with an unassigned op are rejected as such, and a word of an assigned op with a
reserved arg bit set is rejected as that. Log 17: the two names are the model's; the rules say ILLEGAL of both. -/
def Obligations.IllegalWordsRejectedByName : Prop :=
  (∀ op arg : Byte,
    decode (mkWord op arg) = .error (.unassignedOpcode op) ↔
      (op = 0x00 ∨ op = 0x06 ∨ op = 0x07 ∨ op = 0x0B ∨ 0x0E ≤ op.toNat)) ∧
  (∀ op arg : Byte, op ∈ [(0x01 : Byte), 0x03, 0x05, 0x08, 0x0A, 0x0C, 0x0D] → arg ≠ 0x00 →
    decode (mkWord op arg) = .error (.reservedArgBits op arg)) ∧
  (∀ arg : Byte, arg.toNat / 2 ≠ 0 → decode (mkWord 0x02 arg) = .error (.reservedArgBits 0x02 arg))

/-- Words of 95_test_vectors.md §2.1 and of R78, each family: what they decode to. -/
def Obligations.SpecWordsDecode : Prop :=
  decode 0x0100 = .ok .reset ∧ decode 0x0200 = .ok (.wrbit false) ∧ decode 0x0201 = .ok (.wrbit true) ∧
  decode 0x0300 = .ok .rdbit ∧ decode 0x04BE = .ok (.wrbyte 0xBE) ∧ decode 0x0500 = .ok .rdbyte ∧
  decode 0x0800 = .ok .crcclr ∧ decode 0x0933 = .ok (.crcfeed 0x33) ∧ decode 0x0A00 = .ok .crcchk ∧
  decode 0x0C00 = .ok .acquire ∧ decode 0x0D00 = .ok .release

/-! ## The step -/

/-- R180, R77: where CTRL turns to a requester whose word the gate admits and the word is a legal command, the step is
that command's meaning with the requester's id beside it; the schedule and the step count move on, and nothing else does. -/
def Obligations.StepRunsDecodedInstruction : Prop :=
  ∀ (s : State) (h : Nat) (rest : List Action) (w : Word) (i : Instr),
    s.sched = .accept h :: rest → s.ready = true → s.phase = .idle → slotOf h s = some w →
    (s.lockOwner = none ∨ s.lockOwner = some h) → decode w = .ok i →
    step s = exec i { s with sched := rest, turn := s.turn + 1, reqId := h }

/-- The word that `withFetchWord` stores is the next to run, from every state, and a word that is not of 16 bits is
refused: it decodes to nothing and is placed nowhere (R57). Log 12: the placing is the model's. -/
def Obligations.FetchedWordRunsNext : Prop :=
  (∀ (s : State) (nbits w : Nat) (i : Instr), decodeTableWord nbits w = some i →
    step (s.withFetchWord nbits w) =
      exec i { s.withFetchWord nbits w with
        sched := s.sched, turn := s.turn + 1, reqId := s.lockOwner.getD 0 }) ∧
  (∀ (s : State) (nbits w : Nat), ¬(nbits = 16 ∧ w < 65536) →
    decodeTableWord nbits w = none ∧ s.withFetchWord nbits w = s)

/-- R6: the step is the scheduled agent's own step. Log 1: the schedule is the model's. -/
def Obligations.StepRunsScheduledAgent : Prop :=
  ∀ (s : State) (a : Action) (rest : List Action), s.sched = a :: rest →
    step s = runAction a { s with sched := rest, turn := s.turn + 1 }

/-- R180: CTRL accepts the word in `cmd_slot[h]` only when the gate's four conditions hold; where one does not, the
word stays in the slot, the requester waits, and no state of the block changes. -/
def Obligations.HeldWordStays : Prop :=
  ∀ (s : State) (h : Nat) (rest : List Action),
    s.sched = .accept h :: rest →
    ¬(s.ready = true ∧ s.phase = .idle ∧ slotOf h s ≠ none ∧ (s.lockOwner = none ∨ s.lockOwner = some h)) →
    step s = .next { s with sched := rest, turn := s.turn + 1 }

/-- R76: an accepted illegal word is answered (ILLEGAL, 0x00) and changes nothing else; an illegal word from a
non-owner is held. -/
def Obligations.IllegalWordAnswered : Prop :=
  (∀ (s : State) (h : Nat) (rest : List Action) (w : Word),
    s.sched = .accept h :: rest → s.ready = true → s.phase = .idle → slotOf h s = some w →
    (s.lockOwner = none ∨ s.lockOwner = some h) → (∀ i, decode w ≠ .ok i) →
    step s = .next { s with
      sched := rest, turn := s.turn + 1, reqId := h
      reqs := answeredReqs s h 7 0x00
      hist := s.hist ++ [.cmd h w, .rsp h 7 0x00] }) ∧
  (∀ (s : State) (h o : Nat) (rest : List Action) (w : Word),
    s.sched = .accept h :: rest → slotOf h s = some w → (∀ i, decode w ≠ .ok i) → s.lockOwner = some o → o ≠ h →
    step s = .next { s with sched := rest, turn := s.turn + 1 })

/-! ## CRC-8 checker (40_crc8.md) -/

/-- R100: `step8` is the XOR of the byte into the accumulator and eight shift-and-XOR rounds with 0x8C. -/
def Obligations.CrcByteUpdate : Prop :=
  ∀ acc b : Byte,
    step8 acc b = (fun a : Byte => if a.toNat % 2 = 1 then (a >>> 1) ^^^ 0x8C else a >>> 1)^[8] (acc ^^^ b)

/-- R103: CRCCLR, the word 0x0800 and no other of its op, writes 0x00 to the accumulator, answers (OK, 0x00), and
changes nothing else. -/
def Obligations.CrcclrClears : Prop :=
  (∀ s : State,
    exec .crcclr s = .next { s with
      crcAcc := 0x00
      reqs := answeredReqs s s.reqId 0 0x00
      hist := s.hist ++ [.cmd s.reqId 0x0800, .rsp s.reqId 0 0x00] }) ∧
  (∀ (arg : Byte) (i : Instr), decode (mkWord 0x08 arg) = .ok i ↔ (arg = 0x00 ∧ i = .crcclr))

/-- R104: CRCFEED d replaces the accumulator by `step8(crc_acc, d)`, answers (OK, the new value), and changes nothing
else; every byte d is legal; with the rule's corner cases. -/
def Obligations.CrcfeedFolds : Prop :=
  (∀ (s : State) (d : Byte),
    exec (.crcfeed d) s = .next { s with
      crcAcc := step8 s.crcAcc d
      reqs := answeredReqs s s.reqId 0 (step8 s.crcAcc d)
      hist := s.hist ++ [.cmd s.reqId (0x0900 ||| d.setWidth 16), .rsp s.reqId 0 (step8 s.crcAcc d)] }) ∧
  (∀ d : Byte, decode (0x0900 ||| d.setWidth 16) = .ok (.crcfeed d)) ∧
  (∀ a : Byte, step8 a a = 0x00) ∧ step8 0x00 0x01 = 0x5E ∧ step8 0x00 0x80 = 0x8C ∧ step8 0x00 0xFF = 0x35 ∧
  step8 0x00 0x28 = 0xE1

/-- R105: CRCCHK answers (OK, 0x00) when the accumulator is zero and (CRC, crc_acc) when it is not, and writes no state. -/
def Obligations.CrcchkChecks : Prop :=
  (∀ s : State, s.crcAcc = 0x00 →
    exec .crcchk s = .next { s with
      reqs := answeredReqs s s.reqId 0 0x00
      hist := s.hist ++ [.cmd s.reqId 0x0A00, .rsp s.reqId 0 0x00] }) ∧
  (∀ s : State, s.crcAcc ≠ 0x00 →
    exec .crcchk s = .next { s with
      reqs := answeredReqs s s.reqId 6 s.crcAcc
      hist := s.hist ++ [.cmd s.reqId 0x0A00, .rsp s.reqId 6 s.crcAcc] })

/-- R106: CRCCLR and then one CRCFEED per byte of a sequence leave its `crc8` in the accumulator, the last response
carrying it, and touch neither the lock nor the line. -/
def Obligations.CrcCommandsComputeCrc8 : Prop :=
  ∀ (s : State) (bs : List Byte),
    ∃ t, execAll (.crcclr :: bs.map Instr.crcfeed) s = .next t ∧ t.crcAcc = bs.foldl step8 0x00 ∧
      t.hist.getLast? = some (.rsp s.reqId 0 (bs.foldl step8 0x00)) ∧
      t.lockOwner = s.lockOwner ∧ t.baudMode = s.baudMode ∧ t.phase = s.phase ∧ t.txq = s.txq

/-- R106, laws 1 and 2: appending its own CRC makes a frame valid, and only that byte does. -/
def Obligations.CrcConventionsAgree : Prop :=
  (∀ F : List Byte, crc8 (F ++ [crc8 F]) = 0x00) ∧
  (∀ (P : List Byte) (c : Byte), crc8 (P ++ [c]) = 0x00 ↔ crc8 P = c)

/-- R106, law 3: a valid frame with one bit flipped is not valid. -/
def Obligations.CrcDetectsSingleBit : Prop :=
  ∀ (F : List Byte) (k j : Nat) (b : Byte), F[k]? = some b → j < 8 → crc8 F = 0x00 →
    crc8 (F.set k (b ^^^ ((1 : Byte) <<< j))) ≠ 0x00

/-! ## Bit-codec (41_bitcodec.md §1) -/

/-- R120, R121: the slot pattern of a bit and of a read slot, and the decode of an echo. -/
def Obligations.SlotPatternAndDecode : Prop :=
  pat true = 0xFF ∧ pat false = 0x00 ∧ releasePattern = 0xFF ∧ ∀ e : Byte, dec e = true ↔ e = 0xFF

/-- R125, R126: slot i of a byte is the pattern of its bit i, and echo i decodes into bit i of the result. -/
def Obligations.ByteToSlotsAndBack : Prop :=
  (∀ v : Byte, (slots v).length = 8 ∧
    ∀ i, i < 8 → (slots v)[i]? = some (if v.getLsbD i = true then 0xFF else 0x00)) ∧
  (∀ es : List Byte, es.length = 8 → ∀ i, i < 8 → ((assemble es).getLsbD i = true ↔ es[i]? = some 0xFF))

/-- R157: the completion of a WRBYTE with a full frame answers the code and the data that the completions of eight
WRBITs, of its bits and with its echoes, answer together: OK exactly when each is OK, else RESPONSE_MISMATCH, and the OR of
their data; and so RDBYTE against eight RDBITs. Log 8: that `fr_n`, `fr_buf` and `cur` stay is the model's reading of
R134. -/
def Obligations.WrbyteEqualsEightWrbits : Prop :=
  (∀ (s : State) (bit : Fin 8 → State), fullFrame s 0x04 .eight →
    (∀ i, fullFrame (bit i) 0x02 .one ∧ (bit i).cur.arg = (if s.cur.arg.getLsbD i then 1 else 0) ∧
      (bit i).frBuf[0] = s.frBuf[i]) →
    ∃ (err : Nibble) (data : Byte) (errs : Fin 8 → Nibble) (datas : Fin 8 → Byte),
      completeStep s = .next (completed s s.baudMode err data) ∧
      (∀ i, completeStep (bit i) = .next (completed (bit i) (bit i).baudMode (errs i) (datas i))) ∧
      err = (if ∀ i, errs i = 0 then 0 else 5) ∧
      data = (List.ofFn fun i => datas i <<< i.val).foldl (· ||| ·) 0) ∧
  (∀ (s : State) (bit : Fin 8 → State), fullFrame s 0x05 .eight →
    (∀ i, fullFrame (bit i) 0x03 .one ∧ (bit i).frBuf[0] = s.frBuf[i]) →
    ∃ (err : Nibble) (data : Byte) (errs : Fin 8 → Nibble) (datas : Fin 8 → Byte),
      completeStep s = .next (completed s s.baudMode err data) ∧
      (∀ i, completeStep (bit i) = .next (completed (bit i) (bit i).baudMode (errs i) (datas i))) ∧
      err = 0 ∧ (∀ i, errs i = 0) ∧
      data = (List.ofFn fun i => datas i <<< i.val).foldl (· ||| ·) 0)

/-- R150: the four classes of the presence byte, their bounds and their counts. -/
def Obligations.PresencePartition : Prop :=
  (∀ p : Byte, classify p = .noDevice ↔ p = 0xF0) ∧
  (∀ p : Byte, classify p = .shortCircuit ↔ p = 0x00) ∧
  (∀ p : Byte, classify p = .present ↔ (0x10 ≤ p.toNat ∧ p.toNat ≤ 0xE0)) ∧
  (∀ p : Byte, classify p = .malformed ↔
    ((0x01 ≤ p.toNat ∧ p.toNat ≤ 0x0F) ∨ (0xE1 ≤ p.toNat ∧ p.toNat ≤ 0xEF) ∨ (0xF1 ≤ p.toNat ∧ p.toNat ≤ 0xFF))) ∧
  ((List.range 256).filter fun n => classify (BitVec.ofNat 8 n) == .present).length = 209 ∧
  ((List.range 256).filter fun n => classify (BitVec.ofNat 8 n) == .malformed).length = 45

/-! ## Acceptance of the bus commands (R137) -/

/-- R151: RESET selects the reset rate, arms a 1-byte frame and queues 0xF0; nothing else changes. -/
def Obligations.ResetAccepted : Prop :=
  ∀ s : State, exec .reset s = .next (accepted s 0x01 0x00 .one [0xF0] .reset)

/-- R135, R136, R137: WRBIT b queues the pattern of b and RDBIT the release pattern, each with a 1-byte frame armed; the
baud mode and everything else stay. -/
def Obligations.BitCommandsAccepted : Prop :=
  (∀ (s : State) (b : Bool),
    exec (.wrbit b) s =
      .next (accepted s 0x02 (if b then 1 else 0) .one [if b then 0xFF else 0x00] s.baudMode)) ∧
  (∀ s : State, exec .rdbit s = .next (accepted s 0x03 0x00 .one [0xFF] s.baudMode))

/-- R153, R154, R137: WRBYTE v queues its eight slots and RDBYTE eight release slots, each with one 8-byte frame armed;
the baud mode and everything else stay. -/
def Obligations.ByteCommandsAccepted : Prop :=
  (∀ (s : State) (v : Byte),
    exec (.wrbyte v) s =
      .next (accepted s 0x04 v .eight
        ((List.range 8).map fun i => if v.getLsbD i then 0xFF else 0x00) s.baudMode)) ∧
  (∀ s : State,
    exec .rdbyte s =
      .next (accepted s 0x05 0x00 .eight [0xFF, 0xFF, 0xFF, 0xFF, 0xFF, 0xFF, 0xFF, 0xFF] s.baudMode))

/-! ## Completion of the bus commands (R131) -/

/-- R152, R131: a RESET whose one reply byte is there is answered by the class of that byte, which the response carries
on every path, with the normal rate restored. Log 8: that `fr_n`, `fr_buf` and `cur` stay is the model's reading of
R134. -/
def Obligations.ResetCompletes : Prop :=
  ∀ s : State, s.phase = .xfer → s.txq = [] → s.cur.op = 0x01 → s.frN = .one → s.frCnt = 1 →
    completeStep s = .next (completed s .normal
      (if s.frBuf[0] = 0xF0 then 1
       else if s.frBuf[0] = 0x00 then 2
       else if 0x10 ≤ s.frBuf[0].toNat ∧ s.frBuf[0].toNat ≤ 0xE0 then 0
       else 3)
      s.frBuf[0])

/-- R135, R136, R131: WRBIT compares the decoded echo with its bit, RDBIT returns it. Log 8: that `fr_n`, `fr_buf` and
`cur` stay is the model's reading of R134. -/
def Obligations.BitCommandsComplete : Prop :=
  (∀ (s : State) (b : Bool), s.phase = .xfer → s.txq = [] → s.cur.op = 0x02 → s.cur.arg = (if b then 1 else 0) →
    s.frN = .one → s.frCnt = 1 →
    completeStep s = .next (completed s s.baudMode
      (if (s.frBuf[0] = 0xFF ↔ b = true) then 0 else 5) (if s.frBuf[0] = 0xFF then 1 else 0))) ∧
  (∀ s : State, s.phase = .xfer → s.txq = [] → s.cur.op = 0x03 → s.frN = .one → s.frCnt = 1 →
    completeStep s = .next (completed s s.baudMode 0 (if s.frBuf[0] = 0xFF then 1 else 0)))

/-- R153, R154, R131: WRBYTE compares the assembled echo with its byte, RDBYTE returns it. Log 8: that `fr_n`, `fr_buf`
and `cur` stay is the model's reading of R134. -/
def Obligations.ByteCommandsComplete : Prop :=
  (∀ s : State, s.phase = .xfer → s.txq = [] → s.cur.op = 0x04 → s.frN = .eight → s.frCnt = 8 →
    completeStep s = .next (completed s s.baudMode
      (if assemble s.frBuf.toList = s.cur.arg then 0 else 5) (assemble s.frBuf.toList))) ∧
  (∀ s : State, s.phase = .xfer → s.txq = [] → s.cur.op = 0x05 → s.frN = .eight → s.frCnt = 8 →
    completeStep s = .next (completed s s.baudMode 0 (assemble s.frBuf.toList)))

/-- R138, R131, R152: whatever the bus command, a frame that expired before it was full is answered
(READ_TIMEOUT, 0x00), and the rate is NORMAL after a RESET. Log 8: that `fr_n`, `fr_buf` and `cur` stay is the model's
reading of R134. -/
def Obligations.TimedOutFrameAnswered : Prop :=
  ∀ s : State, s.phase = .xfer → s.txq = [] → s.frExpired = true → s.frCnt ≠ s.frN.toNat →
    completeStep s = .next (completed s (if s.cur.op = 0x01 then .normal else s.baudMode) 4 0x00)

/-- R7: the block leaves XFER only by block reset, or with the queue sent and the frame full or expired. -/
def Obligations.NoCompletionWithoutFrame : Prop :=
  ∀ s t : State, s.phase = .xfer → step s = .next t → t.phase = .idle →
    nextAction s = .blockReset ∨ (s.txq = [] ∧ (s.frCnt = s.frN.toNat ∨ s.frExpired = true))

/-! ## Line and timer -/

/-- R128: LINE_TX sends the head of the queue at the rate of `baud_mode`; it neither reads nor writes the frame. Log 15:
that its step changes nothing where it is not enabled is the model's. -/
def Obligations.LineTxSendsHead : Prop :=
  (∀ (s : State) (b : Byte) (bs : List Byte), s.txq = b :: bs →
    runAction .lineTx s = .next { s with txq := bs, hist := s.hist ++ [.tx b s.baudMode] }) ∧
  (∀ s : State, s.txq = [] → runAction .lineTx s = .next s)

/-- R129, R130: an armed, unexpired frame that is not full takes a byte that ECHO_MODEL admits (R124) at its next place;
where no such frame stands a byte is dropped and only `hist` is written. Log 11: that the pattern is the latched command's
for that place, that dropped bytes are not limited, and that an open frame's inadmissible byte does not arrive, are the
model's reading of WIRED_AND. -/
def Obligations.LineRxTakesOrDrops : Prop :=
  (∀ (s : State) (e : Byte),
    (s.params.echoModel = .any ∨ ∃ p, (framePatterns s.cur)[s.frCnt]? = some p ∧ e &&& ~~~p = 0x00) →
    s.frArmed = true → s.frExpired = false → s.frCnt < s.frN.toNat →
    runAction (.lineRx e) s = .next { s with
      frBuf := s.frBuf.setIfInBounds s.frCnt e, frCnt := s.frCnt + 1, hist := s.hist ++ [.rx e true] }) ∧
  (∀ (s : State) (e : Byte), ¬(s.frArmed = true ∧ s.frExpired = false ∧ s.frCnt < s.frN.toNat) →
    runAction (.lineRx e) s = .next { s with hist := s.hist ++ [.rx e false] }) ∧
  (∀ (s : State) (e p : Byte), s.params.echoModel = .wiredAnd → (framePatterns s.cur)[s.frCnt]? = some p →
    e &&& ~~~p ≠ 0x00 → s.frArmed = true → s.frExpired = false → s.frCnt < s.frN.toNat →
    runAction (.lineRx e) s = .next s)

/-- R124 (ECHO_MODEL = WIRED_AND): a byte taken into a frame has no 1 bit where the pattern transmitted for that place
has a 0; so the echo of a write-0 slot is 0x00. Log 11: that pattern is the latched command's for the place, sent or not,
the model's reading of R124's i-th byte transmitted for the frame. -/
def Obligations.WiredAndEcho : Prop :=
  ∀ (s t : State) (e : Byte), Inv s → s.params.echoModel = .wiredAnd → s.phase = .xfer →
    step s = .next t → t.hist = s.hist ++ [.rx e true] →
    ∃ p, (framePatterns s.cur)[s.frCnt]? = some p ∧ e &&& ~~~p = 0x00 ∧ (p = 0x00 → e = 0x00)

/-- R132, R133: TIMER expires an armed, incomplete, unexpired frame: under UNTIMED at any point, under TIMED when T_READ
has elapsed since `arm` and not before; and it has no step for any other frame. Log 9: the ticks are the model's. Log 15:
that a step that is not enabled changes nothing is the model's. -/
def Obligations.TimerExpiresOpenFrame : Prop :=
  (∀ s : State, s.frArmed = true → s.frExpired = false → s.frCnt < s.frN.toNat →
    (s.params.timeoutModel = .untimed ∨ s.frTimer = 500 * s.params.ticksPerMs) →
    runAction .timer s = .next { s with frExpired := true, hist := s.hist ++ [.expire] }) ∧
  (∀ s : State, s.params.timeoutModel = .timed → s.frTimer < 500 * s.params.ticksPerMs →
    runAction .timer s = .next s) ∧
  (∀ s : State, ¬(s.frArmed = true ∧ s.frExpired = false ∧ s.frCnt < s.frN.toNat) →
    runAction .timer s = .next s)

/-- R133 (TIMED): an open frame whose bound has elapsed lets no time pass before it expires or fills; before that, a
tick counts. Log 9: the tick is the model's. -/
def Obligations.TimedBoundIsExact : Prop :=
  (∀ s : State, s.params.timeoutModel = .timed → frameOpen s = true → s.frTimer = 500 * s.params.ticksPerMs →
    runAction .tick s = .next s) ∧
  (∀ s : State, frameOpen s = true → s.frTimer < 500 * s.params.ticksPerMs →
    ∃ t, runAction .tick s = .next t ∧ t.frTimer = s.frTimer + 1 ∧ t.hist = s.hist)

/-! ## Lock (43_lock.md) -/

/-- R181: ACQUIRE makes its requester the owner, answers (OK, 0x00), and changes nothing else. -/
def Obligations.AcquireTakesLock : Prop :=
  ∀ s : State,
    exec .acquire s = .next { s with
      lockOwner := some s.reqId
      reqs := answeredReqs s s.reqId 0 0x00
      hist := s.hist ++ [.cmd s.reqId 0x0C00, .rsp s.reqId 0 0x00] }

/-- R182: RELEASE by the owner frees the lock and answers (OK, 0x00); otherwise it answers (NOT_OWNER, 0x00) and the
lock stays as it is. -/
def Obligations.ReleaseFreesLock : Prop :=
  (∀ s : State, s.lockOwner = some s.reqId →
    exec .release s = .next { s with
      lockOwner := none
      reqs := answeredReqs s s.reqId 0 0x00
      hist := s.hist ++ [.cmd s.reqId 0x0D00, .rsp s.reqId 0 0x00] }) ∧
  (∀ s : State, s.lockOwner ≠ some s.reqId →
    exec .release s = .next { s with
      reqs := answeredReqs s s.reqId 8 0x00
      hist := s.hist ++ [.cmd s.reqId 0x0D00, .rsp s.reqId 8 0x00] })

/-- R184: only RELEASE by the owner and block reset end an ownership. -/
def Obligations.LockOutlivesErrors : Prop :=
  ∀ (s t : State) (o : Nat), s.lockOwner = some o → step s = .next t → t.lockOwner ≠ some o →
    nextAction s = .blockReset ∨ (nextAction s = .accept o ∧ slotOf o s = some 0x0D00)

/-- R180, R186: while the lock is owned, every command accepted is the owner's. -/
def Obligations.OnlyOwnerIsAccepted : Prop :=
  ∀ (s t : State) (o h : Nat) (w : Word) (es : List Event), s.lockOwner = some o → step s = .next t →
    t.hist = s.hist ++ es → .cmd h w ∈ es → h = o

/-- R185: while the lock is owned, no step but the acceptance of a command of the owner, or block reset, changes
`crc_acc`. -/
def Obligations.LockProtectsCrc : Prop :=
  ∀ (s t : State) (o : Nat), s.lockOwner = some o → step s = .next t →
    nextAction s ≠ .accept o → nextAction s ≠ .blockReset → t.crcAcc = s.crcAcc

/-! ## Reset and boot (70_reset_and_hazards.md) -/

/-- R270, R37: block reset, from any state and whatever is in execution, gives every specified field its reset value,
appends `reset`, and leaves the hosts and the parameters as they are. The hosts' state (log 14) and the parameters'
place (log 2) are the model's. -/
def Obligations.BlockResetValues : Prop :=
  ∀ s : State, ∃ t, runAction .blockReset s = .next t ∧
    t.baudMode = .normal ∧ t.ready = false ∧ t.phase = .idle ∧ t.txq = [] ∧ t.frArmed = false ∧ t.frCnt = 0 ∧
    t.frExpired = false ∧ t.crcAcc = 0x00 ∧ t.lockOwner = none ∧ t.hist = s.hist ++ [.reset] ∧
    t.reqs = s.reqs.map (fun r => { r with slot := none, waiting := false }) ∧ t.params = s.params

/-- R37: the reset state holds every value the table gives. N_REQ and the fields the table leaves unspecified are the
model's (logs 3, 4) and are not stated. -/
def Obligations.ResetStateValues : Prop :=
  State.reset.baudMode = .normal ∧ State.reset.ready = false ∧ State.reset.phase = .idle ∧ State.reset.txq = [] ∧
  State.reset.frArmed = false ∧ State.reset.frCnt = 0 ∧ State.reset.frExpired = false ∧ State.reset.crcAcc = 0x00 ∧
  State.reset.lockOwner = none ∧ ∀ h, slotOf h State.reset = none ∧ waitingOf h State.reset = false

/-- R274, R24: line-ready sets `ready`, and it stays true until the next block reset. -/
def Obligations.ReadyStaysUntilReset : Prop :=
  (∀ s : State, runAction .lineReady s = .next { s with ready := true }) ∧
  (∀ s t : State, s.ready = true → step s = .next t → t.ready = false → nextAction s = .blockReset)

/-! ## Whole-machine rules -/

/-- The reset state meets the invariant. -/
def Obligations.ResetMeetsInvariant : Prop := Inv State.reset

/-- From every state that meets the invariant the machine takes a step, neither faulting nor refusing, to a state that
meets it: whatever agent moves and whatever the environment draws. -/
def Obligations.StepKeepsInvariant : Prop :=
  ∀ s : State, Inv s → ∃ t, step s = .next t ∧ Inv t

/-- R35: every step from a state that meets the invariant to an idle block leaves it with the normal rate, the frame
disarmed and the queue empty; and only the acceptance of a bus command leaves IDLE. -/
def Obligations.IdleBlockIsQuiet : Prop :=
  (∀ s t : State, Inv s → step s = .next t → t.phase = .idle →
    t.baudMode = .normal ∧ t.frArmed = false ∧ t.frCnt = 0 ∧ t.frExpired = false ∧ t.txq = []) ∧
  (∀ s t : State, s.phase = .idle → step s = .next t → t.phase = .xfer →
    ∃ h w i n, nextAction s = .accept h ∧ slotOf h s = some w ∧ decode w = .ok i ∧ busFrame i = some n)

/-- R278: no command is accepted while the reset rate is selected, which is only during a RESET in XFER: CTRL's turn to
any requester changes nothing. -/
def Obligations.NoAcceptanceAtResetRate : Prop :=
  ∀ (s : State) (h : Nat), Inv s → s.baudMode = .reset →
    runAction (.accept h) s = .next s ∧ s.phase = .xfer ∧ s.cur.op = 0x01

/-- R277: the baud mode changes only at the acceptance of RESET, at the completion of RESET, each with the queue
empty, and at block reset. -/
def Obligations.BaudChangesOnQuietLine : Prop :=
  ∀ s t : State, Inv s → step s = .next t → t.baudMode ≠ s.baudMode →
    (nextAction s = .blockReset) ∨
    (s.txq = [] ∧ s.frArmed = false ∧ t.baudMode = .reset ∧
      ∃ h, nextAction s = .accept h ∧ slotOf h s = some 0x0100) ∨
    (s.txq = [] ∧ (s.frCnt = s.frN.toNat ∨ s.frExpired = true) ∧ t.baudMode = .normal ∧ s.cur.op = 0x01 ∧
      nextAction s = .complete)

/-- R36: the history only grows, by at most the two events of a command that completes in its acceptance. -/
def Obligations.HistoryOnlyGrows : Prop :=
  ∀ s t : State, step s = .next t → ∃ es, t.hist = s.hist ++ es ∧ es.length ≤ 2

/-- R186: a byte is sent, or taken into a frame, only while a bus command is in execution. -/
def Obligations.ExchangesOnlyInXfer : Prop :=
  ∀ (s t : State) (es : List Event) (e : Event), Inv s → step s = .next t → t.hist = s.hist ++ es → e ∈ es →
    exchangeEvent e = true → s.phase = .xfer

/-- R245, R272: each command accepted since the last block reset has exactly one response, or is the one command in
execution and its requester waits: every step keeps this. -/
def Obligations.OneResponsePerCommand : Prop :=
  ∀ s t : State, Inv s → Accounted s → step s = .next t → Accounted t

/-- The parameters and the number of requesters are fixed: no step changes them (00_scope.md §4, R252). -/
def Obligations.ParametersFixed : Prop :=
  ∀ s t : State, step s = .next t → t.params = s.params ∧ t.reqs.length = s.reqs.length

/-- R31, R29, R30, R23, R25: every command's acceptance answers a next state, in which `crc_acc` has changed only for
CRCCLR and CRCFEED, the lock only for ACQUIRE and RELEASE, the baud mode only for RESET, and the phase, the latch, the
queue and the frame only for a bus command; the received bytes never. -/
def Obligations.AcceptanceWrites : Prop :=
  ∀ (i : Instr) (s : State), ∃ t, exec i s = .next t ∧
    (t.crcAcc ≠ s.crcAcc → i = .crcclr ∨ ∃ d, i = .crcfeed d) ∧
    (t.lockOwner ≠ s.lockOwner → i = .acquire ∨ i = .release) ∧
    (t.baudMode ≠ s.baudMode → i = .reset) ∧
    (busFrame i = none → t.phase = s.phase ∧ t.cur = s.cur ∧ t.txq = s.txq ∧ t.frArmed = s.frArmed ∧
      t.frN = s.frN ∧ t.frCnt = s.frCnt ∧ t.frExpired = s.frExpired ∧ t.frTimer = s.frTimer) ∧
    t.frBuf = s.frBuf ∧ t.ready = s.ready ∧ t.params = s.params ∧ t.sched = s.sched ∧ t.turn = s.turn

/-- R34: a word enters `cmd_slot[h]` only while the slot is empty and h does not wait, and only by HOST(h). -/
def Obligations.WordPlacedOnlyWhenFree : Prop :=
  ∀ (s t : State) (h : Nat) (w : Word), step s = .next t → slotOf h t = some w → slotOf h s ≠ some w →
    slotOf h s = none ∧ waitingOf h s = false ∧
      (nextAction s = .place h w ∨ nextAction s = .host h)

/-- R241, R131, R137: a bus command of requester h, accepted by an idle block, answers as R241's table says for the
first `fr_n` bytes the line delivers, in every interleaving of the sent and the received bytes and whatever extra bytes
arrive after them; the block is idle at the normal rate again, and the accumulator and the lock are as before. -/
def Obligations.BusExchangeAnswers : Prop :=
  ∀ (s : State) (h : Nat) (i : Instr) (n : FrameLen) (as rest : List Action),
    Inv s → s.params.echoModel = .any → busFrame i = some n →
    s.ready = true → s.phase = .idle → slotOf h s = some (encode i) →
    (s.lockOwner = none ∨ s.lockOwner = some h) →
    (∀ a ∈ as, isLineStep a = true) → n.toNat ≤ as.count .lineTx → n.toNat ≤ (rxBytes as).length →
    s.sched = .accept h :: (as ++ .complete :: rest) →
    ∃ t, runSteps (as.length + 2) s = .next t ∧ t.sched = rest ∧ t.phase = .idle ∧ t.baudMode = .normal ∧
      t.crcAcc = s.crcAcc ∧ t.lockOwner = s.lockOwner ∧ waitingOf h t = false ∧
      t.hist.getLast? =
        some (.rsp h (busAnswer i ((rxBytes as).take n.toNat)).err (busAnswer i ((rxBytes as).take n.toNat)).data)

/-- R131, R133, R138 (UNTIMED): a bus command in execution whose queue is sent and whose frame TIMER then expires is
answered, with READ_TIMEOUT if the frame was not full. -/
def Obligations.BusCommandEndsByExpiry : Prop :=
  ∀ (s : State) (rest : List Action), Inv s → s.params.timeoutModel = .untimed → s.phase = .xfer →
    s.sched = List.replicate s.txq.length .lineTx ++ .timer :: .complete :: rest →
    ∃ t, runSteps (s.txq.length + 2) s = .next t ∧ t.phase = .idle ∧ t.sched = rest ∧
      waitingOf s.cur.req t = false ∧
      (s.frCnt < s.frN.toNat → t.hist.getLast? = some (.rsp s.cur.req 4 0x00))

/-- R8: on a run where LINE_TX and TIMER are weakly fair, a bus command in execution comes to the point where its
completion is enabled, or has left XFER before. Log 18: the two premises are the model's reading of R8. -/
def Obligations.FairRunReachesCompletion : Prop :=
  ∀ (a : Nat → Action) (r : Nat → State) (n : Nat), IsRun a r → Inv (r n) → FairLineTx a r → FairTimer r →
    (r n).phase = .xfer →
    ∃ m, n ≤ m ∧ ((r m).phase = .idle ∨ canComplete (r m) = true)

/-! ## Host side (44_host_transactions.md) -/

/-- R211: the raw temperature is the signed little-endian value of scratchpad bytes 0 and 1, in sixteenths of a degree,
and every 16-bit value decodes. -/
def Obligations.TemperatureDecode : Prop :=
  ∀ b0 b1 : Byte,
    rawTemperature b0 b1 =
      (if b1.toNat < 128 then (b0.toNat + 256 * b1.toNat : Int) else (b0.toNat + 256 * b1.toNat : Int) - 65536) ∧
    -32768 ≤ rawTemperature b0 b1 ∧ rawTemperature b0 b1 ≤ 32767 ∧
    degrees (rawTemperature b0 b1) * 16 = rawTemperature b0 b1

/-- R201, R202: a `!` statement whose command is answered with an error binds it and aborts the transaction with that
error; one that is answered OK goes on to the next statement. -/
def Obligations.BangStatementAborts : Prop :=
  ∀ (s : State) (h : Nat) (r : Requester) (p : Response), s.reqs[h]? = some r →
    r.host.ctl = .await true → r.inbox = some p → p.err.toNat ≤ 8 →
    ∃ t r', runAction (.host h) s = .next t ∧ t.reqs = s.reqs.set h r' ∧ r'.inbox = none ∧
      r'.host.err = p.err ∧ r'.host.d = p.data ∧ r'.slot = r.slot ∧ r'.waiting = r.waiting ∧
      (p.err ≠ 0 → r'.host.ctl = .abort p.err) ∧
      (p.err = 0 → r'.host.ctl = .run ∧ r'.host.idx = r.host.idx + 1)

/-- 93_implementation_defined.md U4: a host that takes a response with a reserved code, in whichever of its waits, stops
with a fault. -/
def Obligations.ReservedCodeFaults : Prop :=
  ∀ (s : State) (h : Nat) (r : Requester) (p : Response), s.reqs[h]? = some r →
    ((∃ b, r.host.ctl = .await b) ∨ (∃ e, r.host.ctl = .awaitAbort e) ∨ (∃ v, r.host.ctl = .awaitReturn v)) →
    r.inbox = some p → 9 ≤ p.err.toNat →
    runAction (.host h) s = .fault .reservedErrorCode

/-- R201: `abort(E)` places RELEASE if the transaction holds the lock, ignores its response, and ends the transaction
with E, an error code or `$err`. Log 21: that the host knows it holds the lock by its own responses is the model's. -/
def Obligations.AbortStatementEnds : Prop :=
  (∀ (s : State) (h : Nat) (r : Requester) (a : AbortCode), s.reqs[h]? = some r →
    r.host.ctl = .run → r.host.prog[r.host.idx]? = some (.abort a) →
    runAction (.host h) s = .next { s with
      reqs := s.reqs.set h { r with host := { r.host with
        ctl := .abort (match a with | .code e => e | .err => r.host.err) } } }) ∧
  (∀ (s : State) (h : Nat) (r : Requester) (e : Nibble), s.reqs[h]? = some r →
    r.host.ctl = .abort e → r.host.holds = true → r.slot = none → r.waiting = false →
    runAction (.host h) s = .next { s with
      reqs := s.reqs.set h { r with
        slot := some 0x0D00, inbox := none, host := { r.host with ctl := .awaitAbort e } } }) ∧
  (∀ (s : State) (h : Nat) (r : Requester) (e : Nibble), s.reqs[h]? = some r →
    r.host.ctl = .abort e → r.host.holds = false →
    runAction (.host h) s = .next { s with
      reqs := s.reqs.set h { r with host := { r.host with ctl := .done (.error e) } } }) ∧
  (∀ (s : State) (h : Nat) (r : Requester) (e : Nibble) (p : Response), s.reqs[h]? = some r →
    r.host.ctl = .awaitAbort e → r.inbox = some p → p.err.toNat ≤ 8 →
    runAction (.host h) s = .next { s with
      reqs := s.reqs.set h { r with
        inbox := none, host := { r.host with ctl := .done (.error e), holds := false } } })
end

