-- ==== Sys2Proof/Laws/State.lean ====
section
/-! SUPPORT. One lemma per field per update: what each shared operation does to each field of State. -/

namespace Sys2Proof.Machine

@[simp] theorem record_baudMode (e : Event) (s : State) : (record e s).baudMode = s.baudMode := rfl
@[simp] theorem record_ready (e : Event) (s : State) : (record e s).ready = s.ready := rfl
@[simp] theorem record_phase (e : Event) (s : State) : (record e s).phase = s.phase := rfl
@[simp] theorem record_cur (e : Event) (s : State) : (record e s).cur = s.cur := rfl
@[simp] theorem record_txq (e : Event) (s : State) : (record e s).txq = s.txq := rfl
@[simp] theorem record_frArmed (e : Event) (s : State) : (record e s).frArmed = s.frArmed := rfl
@[simp] theorem record_frN (e : Event) (s : State) : (record e s).frN = s.frN := rfl
@[simp] theorem record_frCnt (e : Event) (s : State) : (record e s).frCnt = s.frCnt := rfl
@[simp] theorem record_frBuf (e : Event) (s : State) : (record e s).frBuf = s.frBuf := rfl
@[simp] theorem record_frExpired (e : Event) (s : State) : (record e s).frExpired = s.frExpired := rfl
@[simp] theorem record_frTimer (e : Event) (s : State) : (record e s).frTimer = s.frTimer := rfl
@[simp] theorem record_crcAcc (e : Event) (s : State) : (record e s).crcAcc = s.crcAcc := rfl
@[simp] theorem record_lockOwner (e : Event) (s : State) : (record e s).lockOwner = s.lockOwner := rfl
@[simp] theorem record_reqs (e : Event) (s : State) : (record e s).reqs = s.reqs := rfl
@[simp] theorem record_hist (e : Event) (s : State) : (record e s).hist = s.hist ++ [e] := rfl
@[simp] theorem record_params (e : Event) (s : State) : (record e s).params = s.params := rfl
@[simp] theorem record_reqId (e : Event) (s : State) : (record e s).reqId = s.reqId := rfl
@[simp] theorem record_sched (e : Event) (s : State) : (record e s).sched = s.sched := rfl
@[simp] theorem record_turn (e : Event) (s : State) : (record e s).turn = s.turn := rfl

@[simp] theorem updReq_baudMode (h : Nat) (f : Requester → Requester) (s : State) : (updReq h f s).baudMode = s.baudMode := rfl
@[simp] theorem updReq_ready (h : Nat) (f : Requester → Requester) (s : State) : (updReq h f s).ready = s.ready := rfl
@[simp] theorem updReq_phase (h : Nat) (f : Requester → Requester) (s : State) : (updReq h f s).phase = s.phase := rfl
@[simp] theorem updReq_cur (h : Nat) (f : Requester → Requester) (s : State) : (updReq h f s).cur = s.cur := rfl
@[simp] theorem updReq_txq (h : Nat) (f : Requester → Requester) (s : State) : (updReq h f s).txq = s.txq := rfl
@[simp] theorem updReq_frArmed (h : Nat) (f : Requester → Requester) (s : State) : (updReq h f s).frArmed = s.frArmed := rfl
@[simp] theorem updReq_frN (h : Nat) (f : Requester → Requester) (s : State) : (updReq h f s).frN = s.frN := rfl
@[simp] theorem updReq_frCnt (h : Nat) (f : Requester → Requester) (s : State) : (updReq h f s).frCnt = s.frCnt := rfl
@[simp] theorem updReq_frBuf (h : Nat) (f : Requester → Requester) (s : State) : (updReq h f s).frBuf = s.frBuf := rfl
@[simp] theorem updReq_frExpired (h : Nat) (f : Requester → Requester) (s : State) : (updReq h f s).frExpired = s.frExpired := rfl
@[simp] theorem updReq_frTimer (h : Nat) (f : Requester → Requester) (s : State) : (updReq h f s).frTimer = s.frTimer := rfl
@[simp] theorem updReq_crcAcc (h : Nat) (f : Requester → Requester) (s : State) : (updReq h f s).crcAcc = s.crcAcc := rfl
@[simp] theorem updReq_lockOwner (h : Nat) (f : Requester → Requester) (s : State) : (updReq h f s).lockOwner = s.lockOwner := rfl
@[simp] theorem updReq_reqs (h : Nat) (f : Requester → Requester) (s : State) : (updReq h f s).reqs = s.reqs.modify h f := rfl
@[simp] theorem updReq_hist (h : Nat) (f : Requester → Requester) (s : State) : (updReq h f s).hist = s.hist := rfl
@[simp] theorem updReq_params (h : Nat) (f : Requester → Requester) (s : State) : (updReq h f s).params = s.params := rfl
@[simp] theorem updReq_reqId (h : Nat) (f : Requester → Requester) (s : State) : (updReq h f s).reqId = s.reqId := rfl
@[simp] theorem updReq_sched (h : Nat) (f : Requester → Requester) (s : State) : (updReq h f s).sched = s.sched := rfl
@[simp] theorem updReq_turn (h : Nat) (f : Requester → Requester) (s : State) : (updReq h f s).turn = s.turn := rfl

@[simp] theorem latch_baudMode (h : Nat) (w : Word) (s : State) : (latch h w s).baudMode = s.baudMode := rfl
@[simp] theorem latch_ready (h : Nat) (w : Word) (s : State) : (latch h w s).ready = s.ready := rfl
@[simp] theorem latch_phase (h : Nat) (w : Word) (s : State) : (latch h w s).phase = s.phase := rfl
@[simp] theorem latch_cur (h : Nat) (w : Word) (s : State) : (latch h w s).cur = s.cur := rfl
@[simp] theorem latch_txq (h : Nat) (w : Word) (s : State) : (latch h w s).txq = s.txq := rfl
@[simp] theorem latch_frArmed (h : Nat) (w : Word) (s : State) : (latch h w s).frArmed = s.frArmed := rfl
@[simp] theorem latch_frN (h : Nat) (w : Word) (s : State) : (latch h w s).frN = s.frN := rfl
@[simp] theorem latch_frCnt (h : Nat) (w : Word) (s : State) : (latch h w s).frCnt = s.frCnt := rfl
@[simp] theorem latch_frBuf (h : Nat) (w : Word) (s : State) : (latch h w s).frBuf = s.frBuf := rfl
@[simp] theorem latch_frExpired (h : Nat) (w : Word) (s : State) : (latch h w s).frExpired = s.frExpired := rfl
@[simp] theorem latch_frTimer (h : Nat) (w : Word) (s : State) : (latch h w s).frTimer = s.frTimer := rfl
@[simp] theorem latch_crcAcc (h : Nat) (w : Word) (s : State) : (latch h w s).crcAcc = s.crcAcc := rfl
@[simp] theorem latch_lockOwner (h : Nat) (w : Word) (s : State) : (latch h w s).lockOwner = s.lockOwner := rfl
@[simp] theorem latch_reqs (h : Nat) (w : Word) (s : State) : (latch h w s).reqs = s.reqs.modify h (fun r => { r with slot := none, waiting := true }) := rfl
@[simp] theorem latch_hist (h : Nat) (w : Word) (s : State) : (latch h w s).hist = s.hist ++ [.cmd h w] := rfl
@[simp] theorem latch_params (h : Nat) (w : Word) (s : State) : (latch h w s).params = s.params := rfl
@[simp] theorem latch_reqId (h : Nat) (w : Word) (s : State) : (latch h w s).reqId = s.reqId := rfl
@[simp] theorem latch_sched (h : Nat) (w : Word) (s : State) : (latch h w s).sched = s.sched := rfl
@[simp] theorem latch_turn (h : Nat) (w : Word) (s : State) : (latch h w s).turn = s.turn := rfl

@[simp] theorem deliver_baudMode (h : Nat) (e : ErrCode) (d : Byte) (s : State) : (deliver h e d s).baudMode = s.baudMode := rfl
@[simp] theorem deliver_ready (h : Nat) (e : ErrCode) (d : Byte) (s : State) : (deliver h e d s).ready = s.ready := rfl
@[simp] theorem deliver_phase (h : Nat) (e : ErrCode) (d : Byte) (s : State) : (deliver h e d s).phase = s.phase := rfl
@[simp] theorem deliver_cur (h : Nat) (e : ErrCode) (d : Byte) (s : State) : (deliver h e d s).cur = s.cur := rfl
@[simp] theorem deliver_txq (h : Nat) (e : ErrCode) (d : Byte) (s : State) : (deliver h e d s).txq = s.txq := rfl
@[simp] theorem deliver_frArmed (h : Nat) (e : ErrCode) (d : Byte) (s : State) : (deliver h e d s).frArmed = s.frArmed := rfl
@[simp] theorem deliver_frN (h : Nat) (e : ErrCode) (d : Byte) (s : State) : (deliver h e d s).frN = s.frN := rfl
@[simp] theorem deliver_frCnt (h : Nat) (e : ErrCode) (d : Byte) (s : State) : (deliver h e d s).frCnt = s.frCnt := rfl
@[simp] theorem deliver_frBuf (h : Nat) (e : ErrCode) (d : Byte) (s : State) : (deliver h e d s).frBuf = s.frBuf := rfl
@[simp] theorem deliver_frExpired (h : Nat) (e : ErrCode) (d : Byte) (s : State) : (deliver h e d s).frExpired = s.frExpired := rfl
@[simp] theorem deliver_frTimer (h : Nat) (e : ErrCode) (d : Byte) (s : State) : (deliver h e d s).frTimer = s.frTimer := rfl
@[simp] theorem deliver_crcAcc (h : Nat) (e : ErrCode) (d : Byte) (s : State) : (deliver h e d s).crcAcc = s.crcAcc := rfl
@[simp] theorem deliver_lockOwner (h : Nat) (e : ErrCode) (d : Byte) (s : State) : (deliver h e d s).lockOwner = s.lockOwner := rfl
@[simp] theorem deliver_reqs (h : Nat) (e : ErrCode) (d : Byte) (s : State) : (deliver h e d s).reqs = s.reqs.modify h (fun r => { r with waiting := false, inbox := some ⟨e.code, d⟩ }) := rfl
@[simp] theorem deliver_hist (h : Nat) (e : ErrCode) (d : Byte) (s : State) : (deliver h e d s).hist = s.hist ++ [.rsp h e.code d] := rfl
@[simp] theorem deliver_params (h : Nat) (e : ErrCode) (d : Byte) (s : State) : (deliver h e d s).params = s.params := rfl
@[simp] theorem deliver_reqId (h : Nat) (e : ErrCode) (d : Byte) (s : State) : (deliver h e d s).reqId = s.reqId := rfl
@[simp] theorem deliver_sched (h : Nat) (e : ErrCode) (d : Byte) (s : State) : (deliver h e d s).sched = s.sched := rfl
@[simp] theorem deliver_turn (h : Nat) (e : ErrCode) (d : Byte) (s : State) : (deliver h e d s).turn = s.turn := rfl

@[simp] theorem arm_baudMode (n : FrameLen) (s : State) : (arm n s).baudMode = s.baudMode := rfl
@[simp] theorem arm_ready (n : FrameLen) (s : State) : (arm n s).ready = s.ready := rfl
@[simp] theorem arm_phase (n : FrameLen) (s : State) : (arm n s).phase = s.phase := rfl
@[simp] theorem arm_cur (n : FrameLen) (s : State) : (arm n s).cur = s.cur := rfl
@[simp] theorem arm_txq (n : FrameLen) (s : State) : (arm n s).txq = s.txq := rfl
@[simp] theorem arm_frArmed (n : FrameLen) (s : State) : (arm n s).frArmed = true := rfl
@[simp] theorem arm_frN (n : FrameLen) (s : State) : (arm n s).frN = n := rfl
@[simp] theorem arm_frCnt (n : FrameLen) (s : State) : (arm n s).frCnt = 0 := rfl
@[simp] theorem arm_frBuf (n : FrameLen) (s : State) : (arm n s).frBuf = s.frBuf := rfl
@[simp] theorem arm_frExpired (n : FrameLen) (s : State) : (arm n s).frExpired = false := rfl
@[simp] theorem arm_frTimer (n : FrameLen) (s : State) : (arm n s).frTimer = 0 := rfl
@[simp] theorem arm_crcAcc (n : FrameLen) (s : State) : (arm n s).crcAcc = s.crcAcc := rfl
@[simp] theorem arm_lockOwner (n : FrameLen) (s : State) : (arm n s).lockOwner = s.lockOwner := rfl
@[simp] theorem arm_reqs (n : FrameLen) (s : State) : (arm n s).reqs = s.reqs := rfl
@[simp] theorem arm_hist (n : FrameLen) (s : State) : (arm n s).hist = s.hist := rfl
@[simp] theorem arm_params (n : FrameLen) (s : State) : (arm n s).params = s.params := rfl
@[simp] theorem arm_reqId (n : FrameLen) (s : State) : (arm n s).reqId = s.reqId := rfl
@[simp] theorem arm_sched (n : FrameLen) (s : State) : (arm n s).sched = s.sched := rfl
@[simp] theorem arm_turn (n : FrameLen) (s : State) : (arm n s).turn = s.turn := rfl

@[simp] theorem disarm_baudMode (s : State) : (disarm s).baudMode = s.baudMode := rfl
@[simp] theorem disarm_ready (s : State) : (disarm s).ready = s.ready := rfl
@[simp] theorem disarm_phase (s : State) : (disarm s).phase = s.phase := rfl
@[simp] theorem disarm_cur (s : State) : (disarm s).cur = s.cur := rfl
@[simp] theorem disarm_txq (s : State) : (disarm s).txq = s.txq := rfl
@[simp] theorem disarm_frArmed (s : State) : (disarm s).frArmed = false := rfl
@[simp] theorem disarm_frN (s : State) : (disarm s).frN = s.frN := rfl
@[simp] theorem disarm_frCnt (s : State) : (disarm s).frCnt = 0 := rfl
@[simp] theorem disarm_frBuf (s : State) : (disarm s).frBuf = s.frBuf := rfl
@[simp] theorem disarm_frExpired (s : State) : (disarm s).frExpired = false := rfl
@[simp] theorem disarm_frTimer (s : State) : (disarm s).frTimer = 0 := rfl
@[simp] theorem disarm_crcAcc (s : State) : (disarm s).crcAcc = s.crcAcc := rfl
@[simp] theorem disarm_lockOwner (s : State) : (disarm s).lockOwner = s.lockOwner := rfl
@[simp] theorem disarm_reqs (s : State) : (disarm s).reqs = s.reqs := rfl
@[simp] theorem disarm_hist (s : State) : (disarm s).hist = s.hist := rfl
@[simp] theorem disarm_params (s : State) : (disarm s).params = s.params := rfl
@[simp] theorem disarm_reqId (s : State) : (disarm s).reqId = s.reqId := rfl
@[simp] theorem disarm_sched (s : State) : (disarm s).sched = s.sched := rfl
@[simp] theorem disarm_turn (s : State) : (disarm s).turn = s.turn := rfl

@[simp] theorem restoreIdle_baudMode (s : State) : (restoreIdle s).baudMode = if s.cur.op = 0x01 then .normal else s.baudMode := rfl
@[simp] theorem restoreIdle_ready (s : State) : (restoreIdle s).ready = s.ready := rfl
@[simp] theorem restoreIdle_phase (s : State) : (restoreIdle s).phase = .idle := rfl
@[simp] theorem restoreIdle_cur (s : State) : (restoreIdle s).cur = s.cur := rfl
@[simp] theorem restoreIdle_txq (s : State) : (restoreIdle s).txq = s.txq := rfl
@[simp] theorem restoreIdle_frArmed (s : State) : (restoreIdle s).frArmed = false := rfl
@[simp] theorem restoreIdle_frN (s : State) : (restoreIdle s).frN = s.frN := rfl
@[simp] theorem restoreIdle_frCnt (s : State) : (restoreIdle s).frCnt = 0 := rfl
@[simp] theorem restoreIdle_frBuf (s : State) : (restoreIdle s).frBuf = s.frBuf := rfl
@[simp] theorem restoreIdle_frExpired (s : State) : (restoreIdle s).frExpired = false := rfl
@[simp] theorem restoreIdle_frTimer (s : State) : (restoreIdle s).frTimer = 0 := rfl
@[simp] theorem restoreIdle_crcAcc (s : State) : (restoreIdle s).crcAcc = s.crcAcc := rfl
@[simp] theorem restoreIdle_lockOwner (s : State) : (restoreIdle s).lockOwner = s.lockOwner := rfl
@[simp] theorem restoreIdle_reqs (s : State) : (restoreIdle s).reqs = s.reqs := rfl
@[simp] theorem restoreIdle_hist (s : State) : (restoreIdle s).hist = s.hist := rfl
@[simp] theorem restoreIdle_params (s : State) : (restoreIdle s).params = s.params := rfl
@[simp] theorem restoreIdle_reqId (s : State) : (restoreIdle s).reqId = s.reqId := rfl
@[simp] theorem restoreIdle_sched (s : State) : (restoreIdle s).sched = s.sched := rfl
@[simp] theorem restoreIdle_turn (s : State) : (restoreIdle s).turn = s.turn := rfl

@[simp] theorem tx_baudMode (b : Byte) (s : State) : (tx b s).baudMode = s.baudMode := rfl
@[simp] theorem tx_ready (b : Byte) (s : State) : (tx b s).ready = s.ready := rfl
@[simp] theorem tx_phase (b : Byte) (s : State) : (tx b s).phase = s.phase := rfl
@[simp] theorem tx_cur (b : Byte) (s : State) : (tx b s).cur = s.cur := rfl
@[simp] theorem tx_txq (b : Byte) (s : State) : (tx b s).txq = s.txq ++ [b] := rfl
@[simp] theorem tx_frArmed (b : Byte) (s : State) : (tx b s).frArmed = s.frArmed := rfl
@[simp] theorem tx_frN (b : Byte) (s : State) : (tx b s).frN = s.frN := rfl
@[simp] theorem tx_frCnt (b : Byte) (s : State) : (tx b s).frCnt = s.frCnt := rfl
@[simp] theorem tx_frBuf (b : Byte) (s : State) : (tx b s).frBuf = s.frBuf := rfl
@[simp] theorem tx_frExpired (b : Byte) (s : State) : (tx b s).frExpired = s.frExpired := rfl
@[simp] theorem tx_frTimer (b : Byte) (s : State) : (tx b s).frTimer = s.frTimer := rfl
@[simp] theorem tx_crcAcc (b : Byte) (s : State) : (tx b s).crcAcc = s.crcAcc := rfl
@[simp] theorem tx_lockOwner (b : Byte) (s : State) : (tx b s).lockOwner = s.lockOwner := rfl
@[simp] theorem tx_reqs (b : Byte) (s : State) : (tx b s).reqs = s.reqs := rfl
@[simp] theorem tx_hist (b : Byte) (s : State) : (tx b s).hist = s.hist := rfl
@[simp] theorem tx_params (b : Byte) (s : State) : (tx b s).params = s.params := rfl
@[simp] theorem tx_reqId (b : Byte) (s : State) : (tx b s).reqId = s.reqId := rfl
@[simp] theorem tx_sched (b : Byte) (s : State) : (tx b s).sched = s.sched := rfl
@[simp] theorem tx_turn (b : Byte) (s : State) : (tx b s).turn = s.turn := rfl

@[simp] theorem advance_baudMode (s : State) : (advance s).baudMode = s.baudMode := rfl
@[simp] theorem advance_ready (s : State) : (advance s).ready = s.ready := rfl
@[simp] theorem advance_phase (s : State) : (advance s).phase = s.phase := rfl
@[simp] theorem advance_cur (s : State) : (advance s).cur = s.cur := rfl
@[simp] theorem advance_txq (s : State) : (advance s).txq = s.txq := rfl
@[simp] theorem advance_frArmed (s : State) : (advance s).frArmed = s.frArmed := rfl
@[simp] theorem advance_frN (s : State) : (advance s).frN = s.frN := rfl
@[simp] theorem advance_frCnt (s : State) : (advance s).frCnt = s.frCnt := rfl
@[simp] theorem advance_frBuf (s : State) : (advance s).frBuf = s.frBuf := rfl
@[simp] theorem advance_frExpired (s : State) : (advance s).frExpired = s.frExpired := rfl
@[simp] theorem advance_frTimer (s : State) : (advance s).frTimer = s.frTimer := rfl
@[simp] theorem advance_crcAcc (s : State) : (advance s).crcAcc = s.crcAcc := rfl
@[simp] theorem advance_lockOwner (s : State) : (advance s).lockOwner = s.lockOwner := rfl
@[simp] theorem advance_reqs (s : State) : (advance s).reqs = s.reqs := rfl
@[simp] theorem advance_hist (s : State) : (advance s).hist = s.hist := rfl
@[simp] theorem advance_params (s : State) : (advance s).params = s.params := rfl
@[simp] theorem advance_reqId (s : State) : (advance s).reqId = s.reqId := rfl
@[simp] theorem advance_sched (s : State) : (advance s).sched = s.sched.tail := rfl
@[simp] theorem advance_turn (s : State) : (advance s).turn = s.turn + 1 := rfl

@[simp] theorem respond_eq (h : Nat) (d : Byte) (s : State) : respond h d s = deliver h .ok d s := rfl

@[simp] theorem raise_eq (h : Nat) (e : ErrCode) (d : Byte) (s : State) : raise h e d s = deliver h e d s := rfl

/-- Queueing a list of bytes appends it to the transmit queue and does nothing else. -/
theorem txAll_eq (bs : List Byte) (s : State) : txAll bs s = { s with txq := s.txq ++ bs } := by
  induction bs generalizing s with
  | nil => simp [txAll]
  | cons b bs ih => simp [txAll, ih, tx]

/-- `accept_bus` as one record update (R137). -/
theorem acceptBus_eq (h : Nat) (w : Word) (n : FrameLen) (bytes : List Byte) (resetRate : Bool) (s : State) :
    acceptBus h w n bytes resetRate s =
      { s with
        phase := .xfer
        cur := ⟨h, opField w, argField w⟩
        baudMode := if resetRate then .reset else s.baudMode
        frArmed := true
        frN := n
        frCnt := 0
        frExpired := false
        frTimer := 0
        txq := s.txq ++ bytes
        reqs := s.reqs.modify h (fun r => { r with slot := none, waiting := true })
        hist := s.hist ++ [.cmd h w] } := by
  cases resetRate <;> simp [acceptBus, txAll_eq, latch, updReq, record, arm]

end Sys2Proof.Machine
end

