-- ==== Sys2Proof/Laws/Ops.lean ====
section
/-! SUPPORT. What each shared operation can do, said once: requester look-ups, the gate, the frame, the responses, the
controller's steps, and the inversion of one agent step. -/

namespace Sys2Proof.Machine

/-! ## Requester look-ups -/

theorem getElem?_updReq (h k : Nat) (f : Requester → Requester) (s : State) :
    (updReq h f s).reqs[k]? = if h = k then (s.reqs[k]?).map f else s.reqs[k]? := by
  simp only [updReq_reqs, List.getElem?_modify]
  split <;> simp

theorem slotOf_eq (h : Nat) (s : State) : slotOf h s = (s.reqs[h]?).bind (·.slot) := by
  unfold slotOf; cases s.reqs[h]? <;> rfl

theorem waitingOf_eq (h : Nat) (s : State) : waitingOf h s = ((s.reqs[h]?).map (·.waiting)).getD false := by
  unfold waitingOf; cases s.reqs[h]? <;> rfl

/-- The two look-ups read nothing but the requesters. -/
theorem slotOf_congr {s t : State} (e : t.reqs = s.reqs) (h : Nat) : slotOf h t = slotOf h s := by
  simp [slotOf, e]

theorem waitingOf_congr {s t : State} (e : t.reqs = s.reqs) (h : Nat) : waitingOf h t = waitingOf h s := by
  simp [waitingOf, e]

/-- Changing requester h's record leaves every other requester's slot alone. -/
theorem slotOf_modify_ne {s t : State} {h k : Nat} {f : Requester → Requester} (e : t.reqs = s.reqs.modify h f)
    (hk : h ≠ k) : slotOf k t = slotOf k s := by
  simp [slotOf, e, hk]

theorem waitingOf_modify_ne {s t : State} {h k : Nat} {f : Requester → Requester} (e : t.reqs = s.reqs.modify h f)
    (hk : h ≠ k) : waitingOf k t = waitingOf k s := by
  simp [waitingOf, e, hk]

theorem slotOf_modify_self {s t : State} {h : Nat} {f : Requester → Requester} (e : t.reqs = s.reqs.modify h f) :
    slotOf h t = (s.reqs[h]?).bind (fun r => (f r).slot) := by
  rw [slotOf_eq, e, List.getElem?_modify]
  cases s.reqs[h]? <;> simp

theorem waitingOf_modify_self {s t : State} {h : Nat} {f : Requester → Requester} (e : t.reqs = s.reqs.modify h f) :
    waitingOf h t = ((s.reqs[h]?).map (fun r => (f r).waiting)).getD false := by
  rw [waitingOf_eq, e, List.getElem?_modify]
  cases s.reqs[h]? <;> simp

/-- A record of a list with one record changed is an old one or the changed one. -/
theorem mem_modify {l : List Requester} {h : Nat} {f : Requester → Requester} {r : Requester}
    (hr : r ∈ l.modify h f) : r ∈ l ∨ ∃ r0, l[h]? = some r0 ∧ r = f r0 := by
  obtain ⟨k, hk⟩ := List.mem_iff_getElem?.1 hr
  rw [List.getElem?_modify] at hk
  by_cases e : h = k
  · subst e
    cases hl : l[h]? with
    | none => simp [hl] at hk
    | some r0 => exact .inr ⟨r0, rfl, by simpa [hl] using hk.symm⟩
  · exact .inl (List.mem_iff_getElem?.2 ⟨k, by simpa [e] using hk⟩)

/-! ## The gate and the frame -/

theorem lockAdmits_iff (h : Nat) (s : State) :
    lockAdmits h s = true ↔ (s.lockOwner = none ∨ s.lockOwner = some h) := by
  unfold lockAdmits
  cases s.lockOwner <;> simp

theorem canAccept_iff (h : Nat) (s : State) :
    canAccept h s = true ↔
      s.ready = true ∧ s.phase = .idle ∧ (∃ w, slotOf h s = some w) ∧
        (s.lockOwner = none ∨ s.lockOwner = some h) := by
  simp only [canAccept, Bool.and_eq_true, beq_iff_eq, lockAdmits_iff, Option.isSome_iff_exists, and_assoc]

theorem frameOpen_iff (s : State) :
    frameOpen s = true ↔ s.frArmed = true ∧ s.frExpired = false ∧ s.frCnt < s.frN.toNat := by
  simp [frameOpen, and_assoc]

theorem canComplete_iff (s : State) :
    canComplete s = true ↔ s.phase = .xfer ∧ s.txq = [] ∧ (s.frCnt = s.frN.toNat ∨ s.frExpired = true) := by
  simp [canComplete, and_assoc]

/-- The step of a schedule that lists one, in terms of the look-ups the gate makes. -/
theorem canAccept_advance (h : Nat) (s : State) : canAccept h (advance s) = canAccept h s := rfl

theorem slotOf_advance (h : Nat) (s : State) : slotOf h (advance s) = slotOf h s := rfl

theorem waitingOf_advance (h : Nat) (s : State) : waitingOf h (advance s) = waitingOf h s := rfl

/-! ## Responses: latch and deliver as one change of the requester's record -/

/-- An acceptance that is answered in the same step changes its requester's record once. -/
theorem deliver_latch_reqs (h : Nat) (w : Word) (e : ErrCode) (d : Byte) (s : State) :
    (deliver h e d (latch h w s)).reqs =
      s.reqs.modify h (fun r => { r with slot := none, waiting := false, inbox := some ⟨e.code, d⟩ }) := by
  simp only [deliver_reqs, latch_reqs, List.modify_modify_eq]
  rfl

/-- Every code that is delivered is one of 0 to 8 (R240). -/
theorem ErrCode.code_le (e : ErrCode) : e.code.toNat ≤ 8 := by cases e <;> decide

/-- The nine codes and no others are read back (R240). -/
theorem ErrCode.ofCode_code (e : ErrCode) : ErrCode.ofCode e.code = some e := by cases e <;> rfl

theorem ErrCode.code_of_ofCode {n : Nibble} {e : ErrCode} (h : ErrCode.ofCode n = some e) : e.code = n := by
  revert e
  revert n
  decide

theorem ErrCode.ofCode_of_le {n : Nibble} (h : n.toNat ≤ 8) : ∃ e, ErrCode.ofCode n = some e := by
  have all : ∀ n : Nibble, n.toNat ≤ 8 → (ErrCode.ofCode n).isSome = true := by decide
  exact Option.isSome_iff_exists.1 (all n h)

/-! ## The controller -/

/-- A finish answers the latched requester, and nothing else changes. -/
theorem finish_cases {c : Latch} {e : List Byte} {s : State} {o : Host.Outcome State Fault Refusal}
    (h : finish c e s = o) :
    (∃ err d, o = .next (deliver c.req err d s)) ∨
      (o = .fault .corruptLatch ∧ c.op ∉ [(0x01 : Byte), 0x02, 0x03, 0x04, 0x05]) := by
  subst h
  unfold finish
  split
  · left; unfold finishReset; dsimp only; split <;> exact ⟨_, _, rfl⟩
  split
  · left; unfold finishWrbit; dsimp only; split <;> exact ⟨_, _, rfl⟩
  split
  · left; exact ⟨_, _, rfl⟩
  split
  · left; unfold finishWrbyte; dsimp only; split <;> exact ⟨_, _, rfl⟩
  split
  · left; exact ⟨_, _, rfl⟩
  · right; simp_all

/-- The completion step does nothing, or answers the latched requester from the restored idle block, or finds a latch
that no run leaves. -/
theorem completeStep_cases {s : State} {o : Host.Outcome State Fault Refusal} (h : completeStep s = o) :
    (canComplete s = false ∧ o = .next s) ∨
      (canComplete s = true ∧ ∃ err d, o = .next (deliver s.cur.req err d (restoreIdle s))) ∨
      (canComplete s = true ∧ o = .fault .corruptLatch ∧ s.cur.op ∉ [(0x01 : Byte), 0x02, 0x03, 0x04, 0x05]) := by
  subst h
  unfold completeStep
  split
  · rename_i hc
    split
    · rcases finish_cases (rfl : finish s.cur (echoes s) (restoreIdle s) = _) with ⟨err, d, h⟩ | ⟨h, hop⟩
      · exact .inr (.inl ⟨hc, err, d, h⟩)
      · exact .inr (.inr ⟨hc, h, hop⟩)
    · exact .inr (.inl ⟨hc, _, _, rfl⟩)
  · rename_i hc
    exact .inl ⟨by simpa using hc, rfl⟩

/-- The acceptance step does nothing, or answers an illegal word, or runs the decoded command. -/
theorem acceptStep_cases {h : Nat} {s : State} {o : Host.Outcome State Fault Refusal} (e : acceptStep h s = o) :
    (canAccept h s = false ∧ o = .next s) ∨
      (∃ w i, canAccept h s = true ∧ slotOf h s = some w ∧ decode w = .ok i ∧ o = exec i { s with reqId := h }) ∨
      (∃ w err, canAccept h s = true ∧ slotOf h s = some w ∧ decode w = .error err ∧
        o = .next (acceptIllegal h w { s with reqId := h })) := by
  subst e
  unfold acceptStep
  split
  · rename_i hc
    obtain ⟨-, -, ⟨w, hw⟩, -⟩ := (canAccept_iff h s).1 hc
    simp only [hw]
    cases hd : decode w with
    | ok i => exact .inr (.inl ⟨w, i, hc, rfl, hd, rfl⟩)
    | error err => exact .inr (.inr ⟨w, err, hc, rfl, hd, rfl⟩)
  · rename_i hc
    exact .inl ⟨by simpa using hc, rfl⟩

/-! ## The host -/

/-- What a host's own step may do to its requester's record: the block's wait is untouched, a word enters the slot only
where R34 lets it, and a response is taken and never made. -/
structure HostMove (r r' : Requester) : Prop where
  waiting : r'.waiting = r.waiting
  slot : r'.slot = r.slot ∨ (canPlace r = true ∧ r'.slot.isSome = true)
  inbox : r'.inbox = r.inbox ∨ r'.inbox = none

theorem HostMove.refl (r : Requester) : HostMove r r := ⟨rfl, .inl rfl, .inl rfl⟩

theorem hostMove_host (r : Requester) (p : HostProc) : HostMove r { r with host := p } := ⟨rfl, .inl rfl, .inl rfl⟩

theorem issueWord_move (w : Word) (after : HostCtl) (r : Requester) : HostMove r (issueWord w after r) := by
  unfold issueWord
  split
  · rename_i h
    exact ⟨rfl, .inr ⟨h, rfl⟩, .inr rfl⟩
  · exact .refl r

theorem hostStmt_move (turn : Nat) (ps : Params) (r : Requester) : HostMove r (hostStmt turn ps r) := by
  unfold hostStmt
  split
  · exact hostMove_host r _
  · exact issueWord_move _ _ r
  · exact issueWord_move _ _ r
  · exact issueWord_move _ _ r
  · exact hostMove_host r _
  · exact hostMove_host r _
  · exact hostMove_host r _
  · exact hostMove_host r _
  · exact issueWord_move _ _ r

theorem hostAwait_cases {r : Requester} {o : Except Fault Requester} (h : hostAwait r = o) :
    (∃ r', o = .ok r' ∧ HostMove r r') ∨
      (o = .error .reservedErrorCode ∧ ∃ p, r.inbox = some p ∧ ErrCode.ofCode p.err = none) := by
  subst h
  unfold hostAwait
  split
  · exact .inl ⟨r, rfl, .refl r⟩
  · rename_i p hp
    split
    · rename_i hc
      exact .inr ⟨rfl, p, hp, hc⟩
    · exact .inl ⟨_, rfl, rfl, .inl rfl, .inr rfl⟩

/-- One step of a host program is a move of the host, or finds a reserved code in its inbox. -/
theorem hostRun_cases {turn : Nat} {ps : Params} {r : Requester} {o : Except Fault Requester}
    (h : hostRun turn ps r = o) :
    (∃ r', o = .ok r' ∧ HostMove r r') ∨
      (o = .error .reservedErrorCode ∧ ∃ p, r.inbox = some p ∧ ErrCode.ofCode p.err = none) := by
  unfold hostRun at h
  split at h
  · exact .inl ⟨_, h.symm, .refl r⟩
  · exact .inl ⟨_, h.symm, .refl r⟩
  · exact .inl ⟨_, h.symm, .refl r⟩
  · exact .inl ⟨_, h.symm, hostStmt_move turn ps r⟩
  · exact hostAwait_cases h
  · exact hostAwait_cases h
  · exact hostAwait_cases h
  · exact .inl ⟨_, h.symm, hostMove_host r _⟩
  · exact .inl ⟨_, h.symm, .refl r⟩
  · split at h
    · exact .inl ⟨_, h.symm, issueWord_move _ _ r⟩
    · exact .inl ⟨_, h.symm, hostMove_host r _⟩

/-- A host's step, in the machine, changes one requester's record by a move of the host, or finds a reserved code. -/
theorem hostStep_cases {h : Nat} {s : State} {o : Host.Outcome State Fault Refusal} (e : hostStep h s = o) :
    (∃ f, o = .next (updReq h f s) ∧ ∀ r, s.reqs[h]? = some r → HostMove r (f r)) ∨
      (o = .fault .reservedErrorCode ∧ ∃ r p, s.reqs[h]? = some r ∧ r.inbox = some p ∧ ErrCode.ofCode p.err = none) := by
  subst e
  unfold hostStep
  split
  · rename_i hn
    left
    refine ⟨id, ?_, fun r _ => .refl r⟩
    have : s.reqs.modify h id = s.reqs := by simp
    simp [updReq, this]
  · rename_i r hr
    rcases hostRun_cases (rfl : hostRun s.turn s.params r = _) with ⟨r', hr', hm⟩ | ⟨hf, p, hp, hc⟩
    · left
      rw [hr']
      refine ⟨fun _ => r', rfl, ?_⟩
      intro r0 h0
      rw [hr] at h0
      cases h0
      exact hm
    · right
      rw [hf]
      exact ⟨rfl, r, p, hr, hp, hc⟩

/-- What binding a byte that was read can do: the statement's variable takes `$d`, or nothing changes. -/
theorem bindRead_eq (p : HostProc) : ∃ buf, bindRead p = { p with buf := buf } := by
  unfold bindRead
  split
  · exact ⟨_, rfl⟩
  · exact ⟨p.buf, rfl⟩

/-- A requester's record replaced is the list's element set. -/
theorem updReq_const {h : Nat} {r : Requester} (r' : Requester) {s : State} (hr : s.reqs[h]? = some r) :
    updReq h (fun _ => r') s = { s with reqs := s.reqs.set h r' } := by
  have e : s.reqs.modify h (fun _ => r') = s.reqs.set h r' := by
    apply List.ext_getElem?
    intro i
    obtain ⟨hl, -⟩ := List.getElem?_eq_some_iff.1 hr
    by_cases hi : h = i
    · subst hi
      simp [hl]
    · simp [hi]
  simp [updReq, e]

/-- A host's step on a requester that exists, its record once its program's step answers. -/
theorem hostStep_ok {h : Nat} {r r' : Requester} {s : State} (hr : s.reqs[h]? = some r)
    (e : hostRun s.turn s.params r = .ok r') : hostStep h s = .next { s with reqs := s.reqs.set h r' } := by
  simp [hostStep, hr, e, updReq_const r' hr]

theorem place_move (w : Word) (r : Requester) :
    HostMove r (if canPlace r && hostAtRest r.host then placeWord w r else r) := by
  split
  · rename_i h
    simp only [Bool.and_eq_true] at h
    exact ⟨rfl, .inr ⟨h.1, rfl⟩, .inr rfl⟩
  · exact .refl r

theorem start_move (p : HostProc) (r : Requester) :
    HostMove r (if hostAtRest r.host then { r with host := p } else r) := by
  split
  · exact hostMove_host r _
  · exact .refl r

/-! ## The line -/

theorem lineTx_cases (s : State) :
    (s.txq = [] ∧ lineTx s = s) ∨
      ∃ b bs, s.txq = b :: bs ∧ lineTx s = { s with txq := bs, hist := s.hist ++ [.tx b s.baudMode] } := by
  unfold lineTx
  cases h : s.txq with
  | nil => exact .inl ⟨rfl, rfl⟩
  | cons b bs => exact .inr ⟨b, bs, rfl, rfl⟩

theorem lineRx_cases (e : Byte) (s : State) :
    (frameOpen s = true ∧ echoAdmitted s e = true ∧
        lineRx e s = { s with
          frBuf := s.frBuf.setIfInBounds s.frCnt e, frCnt := s.frCnt + 1, hist := s.hist ++ [.rx e true] }) ∨
      (frameOpen s = true ∧ echoAdmitted s e = false ∧ lineRx e s = s) ∨
      (frameOpen s = false ∧ lineRx e s = { s with hist := s.hist ++ [.rx e false] }) := by
  unfold lineRx
  by_cases h : frameOpen s = true
  · by_cases h' : echoAdmitted s e = true
    · left; simp [h, h', record]
    · right; left; simp [h, h']
  · right; right; simp [h, record]

theorem timer_cases (s : State) :
    (frameOpen s = true ∧ boundReached s = true ∧
        timer s = { s with frExpired := true, hist := s.hist ++ [.expire] }) ∨
      ((frameOpen s = false ∨ boundReached s = false) ∧ timer s = s) := by
  unfold timer
  by_cases h : frameOpen s = true
  · by_cases h' : boundReached s = true
    · left; simp [h, h', record]
    · right; simp [h, h']
  · right; simp [h]

/-- A tick does nothing, or counts in the timer of an open frame and in the hosts' delays. -/
theorem tick_cases (s : State) :
    tick s = s ∨
      ((frameOpen s = true → s.params.timeoutModel = .timed → s.frTimer < s.params.tRead) ∧
        tick s = { s with
          frTimer := (if frameOpen s then s.frTimer + 1 else s.frTimer)
          reqs := s.reqs.map fun r => { r with host := tickHost r.host } }) := by
  unfold tick
  split
  · exact .inl rfl
  · rename_i h
    right
    refine ⟨fun ho ht => ?_, rfl⟩
    simp only [ho, ht, Bool.true_and, beq_self_eq_true, decide_eq_true_eq] at h
    omega

end Sys2Proof.Machine
end

