-- ==== Sys2Proof/Laws/Exec.lean ====
section
/-! SUPPORT. What the acceptance of a command can do, said once for the commands that complete in it and once for the
bus commands, and what a step of the machine can do: the lemmas that invariants over `step` cite. -/

namespace Sys2Proof.Machine

/-- The patterns a bus command queues (R135, R136, R151, R153, R154). -/
def busPatterns : Instr → List Byte
  | .reset => [resetPattern]
  | .wrbit b => [pat b]
  | .rdbit => [releasePattern]
  | .wrbyte v => slots v
  | .rdbyte => releaseSlots
  | .crcclr => []
  | .crcfeed _ => []
  | .crcchk => []
  | .acquire => []
  | .release => []

/-- The acceptance of a bus command (R137). -/
theorem exec_bus {i : Instr} {n : FrameLen} (hn : busFrame i = some n) (s : State) :
    exec i s = .next (acceptBus s.reqId (encode i) n (busPatterns i) (decide (i = .reset)) s) := by
  cases i <;> simp [busFrame] at hn <;> subst hn <;> rfl

/-- The acceptance of a CRC or lock command: it answers at once; only CRCCLR and CRCFEED write `crc_acc`, only ACQUIRE
and RELEASE the lock, which then is the requester's or free. -/
theorem exec_local {i : Instr} (hn : busFrame i = none) (s : State) :
    ∃ e d acc owner,
      exec i s = .next { s with
        crcAcc := acc
        lockOwner := owner
        reqs := answeredReqs s s.reqId (ErrCode.code e) d
        hist := s.hist ++ [.cmd s.reqId (encode i), .rsp s.reqId (ErrCode.code e) d] } ∧
      (acc ≠ s.crcAcc → i = .crcclr ∨ ∃ b, i = .crcfeed b) ∧
      (owner ≠ s.lockOwner →
        (i = .acquire ∧ owner = some s.reqId) ∨ (i = .release ∧ owner = none ∧ s.lockOwner = some s.reqId)) := by
  cases i with
  | crcclr =>
    refine ⟨.ok, 0, 0, s.lockOwner, ?_, by simp, by simp⟩
    simp [exec, execCrcclr, deliver, latch, record, updReq, answeredReqs, List.modify_modify_eq, Function.comp_def]
  | crcfeed b =>
    refine ⟨.ok, step8 s.crcAcc b, step8 s.crcAcc b, s.lockOwner, ?_, by simp, by simp⟩
    simp [exec, execCrcfeed, deliver, latch, record, updReq, answeredReqs, List.modify_modify_eq, Function.comp_def]
  | crcchk =>
    by_cases h : s.crcAcc = 0x00
    · have h' : crcOutcome s.crcAcc = .ok := by simp [crcOutcome, crcIsZero, h]
      refine ⟨.ok, 0, s.crcAcc, s.lockOwner, ?_, by simp, by simp⟩
      simp [exec, execCrcchk, h', deliver, latch, record, updReq, answeredReqs, List.modify_modify_eq,
        Function.comp_def]
    · have h' : crcOutcome s.crcAcc = .crc := by simpa [crcOutcome, crcIsZero] using h
      refine ⟨.crc, s.crcAcc, s.crcAcc, s.lockOwner, ?_, by simp, by simp⟩
      simp [exec, execCrcchk, h', deliver, latch, record, updReq, answeredReqs, List.modify_modify_eq,
        Function.comp_def]
  | acquire =>
    refine ⟨.ok, 0, s.crcAcc, some s.reqId, ?_, by simp, fun _ => .inl ⟨rfl, rfl⟩⟩
    simp [exec, execAcquire, deliver, latch, record, updReq, answeredReqs, List.modify_modify_eq, Function.comp_def]
  | release =>
    by_cases h : s.lockOwner = some s.reqId
    · refine ⟨.ok, 0, s.crcAcc, none, ?_, by simp, fun _ => .inr ⟨rfl, rfl, h⟩⟩
      simp [exec, execRelease, h, deliver, latch, record, updReq, answeredReqs, List.modify_modify_eq,
        Function.comp_def]
    · refine ⟨.notOwner, 0, s.crcAcc, s.lockOwner, ?_, by simp, by simp⟩
      simp [exec, execRelease, h, deliver, latch, record, updReq, answeredReqs, List.modify_modify_eq,
        Function.comp_def]
  | reset => simp [busFrame] at hn
  | wrbit b => simp [busFrame] at hn
  | rdbit => simp [busFrame] at hn
  | wrbyte v => simp [busFrame] at hn
  | rdbyte => simp [busFrame] at hn

/-- The answer to an illegal word, as one record update (R76). -/
theorem acceptIllegal_eq (h : Nat) (w : Word) (s : State) :
    acceptIllegal h w s =
      { s with reqs := answeredReqs s h 7 0x00, hist := s.hist ++ [.cmd h w, .rsp h 7 0x00] } := by
  simp [acceptIllegal, deliver, latch, record, updReq, answeredReqs, ErrCode.code, List.modify_modify_eq,
    Function.comp_def]

/-- The fields of an encoded bus command that its patterns and its finish depend on. -/
theorem opField_encode_reset_iff (i : Instr) : opField (encode i) = 0x01 ↔ i = .reset := by
  have feed : ∀ d, opField (encode (.crcfeed d)) = 0x09 := by decide
  have byte : ∀ v, opField (encode (.wrbyte v)) = 0x04 := by decide
  cases i with
  | wrbit b => cases b <;> decide
  | wrbyte v => simp [byte]
  | crcfeed d => simp [feed]
  | _ => decide

/-- The latch of an accepted bus command determines the patterns it queued. -/
theorem framePatterns_encode {i : Instr} {n : FrameLen} (hn : busFrame i = some n) (h : Nat) :
    framePatterns ⟨h, opField (encode i), argField (encode i)⟩ = busPatterns i := by
  have op : ∀ v, opField (encode (.wrbyte v)) = 0x04 := by decide
  have arg : ∀ v, argField (encode (.wrbyte v)) = v := by decide
  cases i with
  | wrbit b =>
    have fields : ∀ b, opField (encode (.wrbit b)) = 0x02 ∧ (argField (encode (.wrbit b))).getLsbD 0 = b := by decide
    simp only [framePatterns, busPatterns, fields b]
    rfl
  | wrbyte v => simp [framePatterns, busPatterns, op, arg]
  | reset => rfl
  | rdbit => rfl
  | rdbyte => rfl
  | _ => simp [busFrame] at hn

/-- A bus command's patterns fill its frame. -/
theorem busPatterns_length {i : Instr} {n : FrameLen} (hn : busFrame i = some n) :
    (busPatterns i).length = n.toNat := by
  cases i <;> simp [busFrame] at hn <;> subst hn <;> rfl

/-! ## What one agent step can do -/

/-- Every next state that an agent step can answer, as an update of the state before it. -/
inductive Effect : Action → State → State → Prop where
  /-- The step was not enabled, or the word is held. -/
  | idle (a : Action) (s : State) : Effect a s s
  | place (h : Nat) (w : Word) (s : State) (f : Requester → Requester)
      (move : ∀ r, s.reqs[h]? = some r → HostMove r (f r))
      (word : ∀ r, s.reqs[h]? = some r → (f r).slot = r.slot ∨ (f r).slot = some w) :
      Effect (.place h w) s (updReq h f s)
  | start (h : Nat) (prog : List HostStmt) (s : State) (f : Requester → Requester)
      (move : ∀ r, s.reqs[h]? = some r → HostMove r (f r))
      (word : ∀ r, s.reqs[h]? = some r → (f r).slot = r.slot) :
      Effect (.start h prog) s (updReq h f s)
  | host (h : Nat) (s : State) (f : Requester → Requester)
      (move : ∀ r, s.reqs[h]? = some r → HostMove r (f r)) :
      Effect (.host h) s (updReq h f s)
  /-- A bus command is accepted (R137). -/
  | bus (h : Nat) (w : Word) (i : Instr) (n : FrameLen) (s : State)
      (gate : canAccept h s = true) (slot : slotOf h s = some w) (legal : decode w = .ok i)
      (frame : busFrame i = some n) :
      Effect (.accept h) s
        (acceptBus h (encode i) n (busPatterns i) (decide (i = .reset)) { s with reqId := h })
  /-- A CRC or lock command is accepted and answered. -/
  | answer (h : Nat) (w : Word) (i : Instr) (s : State) (e : ErrCode) (d acc : Byte) (owner : Option Nat)
      (gate : canAccept h s = true) (slot : slotOf h s = some w) (legal : decode w = .ok i)
      (frame : busFrame i = none)
      (crc : acc ≠ s.crcAcc → i = .crcclr ∨ ∃ b, i = .crcfeed b)
      (lock : owner ≠ s.lockOwner →
        (i = .acquire ∧ owner = some h) ∨ (i = .release ∧ owner = none ∧ s.lockOwner = some h)) :
      Effect (.accept h) s
        { s with
          reqId := h
          crcAcc := acc
          lockOwner := owner
          reqs := answeredReqs s h e.code d
          hist := s.hist ++ [.cmd h (encode i), .rsp h e.code d] }
  /-- An illegal word is answered (R76). -/
  | illegal (h : Nat) (w : Word) (s : State) (gate : canAccept h s = true) (slot : slotOf h s = some w)
      (bad : ∀ i, decode w ≠ .ok i) :
      Effect (.accept h) s
        { s with
          reqId := h
          reqs := answeredReqs s h 7 0x00
          hist := s.hist ++ [.cmd h w, .rsp h 7 0x00] }
  /-- The bus command in execution completes (R131). -/
  | complete (s : State) (e : ErrCode) (d : Byte) (enabled : canComplete s = true) :
      Effect .complete s (completed s (if s.cur.op = 0x01 then .normal else s.baudMode) e.code d)
  | lineTx (s : State) (b : Byte) (bs : List Byte) (queue : s.txq = b :: bs) :
      Effect .lineTx s { s with txq := bs, hist := s.hist ++ [.tx b s.baudMode] }
  | rxTaken (e : Byte) (s : State) (frame : frameOpen s = true) (echo : echoAdmitted s e = true) :
      Effect (.lineRx e) s
        { s with frBuf := s.frBuf.setIfInBounds s.frCnt e, frCnt := s.frCnt + 1, hist := s.hist ++ [.rx e true] }
  | rxDropped (e : Byte) (s : State) (frame : frameOpen s = false) :
      Effect (.lineRx e) s { s with hist := s.hist ++ [.rx e false] }
  | expire (s : State) (frame : frameOpen s = true) (bound : boundReached s = true) :
      Effect .timer s { s with frExpired := true, hist := s.hist ++ [.expire] }
  | tick (s : State)
      (bound : frameOpen s = true → s.params.timeoutModel = .timed → s.frTimer < s.params.tRead) :
      Effect .tick s
        { s with
          frTimer := (if frameOpen s then s.frTimer + 1 else s.frTimer)
          reqs := s.reqs.map fun r => { r with host := tickHost r.host } }
  | lineReady (s : State) : Effect .lineReady s { s with ready := true }
  | blockReset (s : State) : Effect .blockReset s (blockReset s)

/-- The inversion of one agent step: a next state is one of the effects. -/
theorem runAction_effect {a : Action} {s t : State} (e : runAction a s = .next t) : Effect a s t := by
  cases a with
  | place h w =>
    cases e
    refine .place h w s _ (fun r _ => place_move w r) (fun r _ => ?_)
    split
    · exact .inr rfl
    · exact .inl rfl
  | start h prog =>
    cases e
    refine .start h prog s _ (fun r _ => start_move _ r) (fun r _ => ?_)
    split <;> rfl
  | host h =>
    rcases hostStep_cases e with ⟨f, h1, h2⟩ | ⟨h1, -⟩
    · cases h1
      exact .host h s f h2
    · cases h1
  | accept h =>
    rcases acceptStep_cases e with ⟨-, h1⟩ | ⟨w, i, gate, slot, legal, h1⟩ | ⟨w, err, gate, slot, bad, h1⟩
    · cases h1
      exact .idle _ _
    · cases hn : busFrame i with
      | some n =>
        rw [exec_bus hn] at h1
        cases h1
        exact .bus h w i n s gate slot legal hn
      | none =>
        obtain ⟨e', d, acc, owner, h2, crc, lock⟩ := exec_local hn { s with reqId := h }
        rw [h2] at h1
        cases h1
        exact .answer h w i s e' d acc owner gate slot legal hn crc lock
    · rw [acceptIllegal_eq] at h1
      cases h1
      exact .illegal h w s gate slot (by simp [bad])
  | complete =>
    rcases completeStep_cases e with ⟨-, h1⟩ | ⟨hc, err, d, h1⟩ | ⟨-, h1, -⟩
    · cases h1
      exact .idle _ _
    · cases h1
      exact .complete s err d hc
    · cases h1
  | lineTx =>
    cases e
    rcases lineTx_cases s with ⟨-, h⟩ | ⟨b, bs, h1, h2⟩
    · rw [h]
      exact .idle _ _
    · rw [h2]
      exact .lineTx s b bs h1
  | lineRx b =>
    cases e
    rcases lineRx_cases b s with ⟨h1, h2, h3⟩ | ⟨-, -, h⟩ | ⟨h1, h2⟩
    · rw [h3]
      exact .rxTaken b s h1 h2
    · rw [h]
      exact .idle _ _
    · rw [h2]
      exact .rxDropped b s h1
  | timer =>
    cases e
    rcases timer_cases s with ⟨h1, h2, h3⟩ | ⟨-, h⟩
    · rw [h3]
      exact .expire s h1 h2
    · rw [h]
      exact .idle _ _
  | tick =>
    cases e
    rcases tick_cases s with h | ⟨hb, h⟩
    · rw [h]
      exact .idle _ _
    · rw [h]
      exact .tick s hb
  | lineReady =>
    cases e
    exact .lineReady s
  | blockReset =>
    cases e
    exact .blockReset s

/-- The inversion of a step: an effect of the next agent step on the state with the step accounted for. -/
theorem step_effect {s t : State} (e : step s = .next t) : Effect (nextAction s) (advance s) t := runAction_effect e

/-- The completion of a full frame runs its finish (R131). -/
theorem completeStep_full {s : State} {op : Byte} {n : FrameLen} (h : fullFrame s op n) :
    completeStep s = finish s.cur (echoes s) (restoreIdle s) := by
  obtain ⟨hp, hq, -, hn, hc⟩ := h
  have full : s.frCnt = s.frN.toNat := by rw [hc, hn]
  simp [completeStep, canComplete, hp, hq, full]

/-- What the end of a run says (R283). -/
theorem runEnded_iff (s : State) :
    runEnded s = true ↔
      s.phase = .idle ∧ ∀ r ∈ s.reqs, r.slot = none ∧ r.waiting = false ∧
        (r.host.ctl = .idle ∨ ∃ x, r.host.ctl = .done x) := by
  have ended : ∀ p : HostProc, programEnded p = true ↔ (p.ctl = .idle ∨ ∃ x, p.ctl = .done x) := by
    intro p
    unfold programEnded
    cases p.ctl <;> simp
  simp [runEnded, ended, and_assoc]

/-- A whole word is placed by `withFetchWord`. -/
theorem withFetchWord_word (s : State) {w : Nat} (hw : w < 65536) :
    s.withFetchWord 16 w = placeFetched (BitVec.ofNat 16 w) s := by
  simp [State.withFetchWord, hw]

/-- A partial word is placed nowhere. -/
theorem withFetchWord_partial (s : State) {nbits w : Nat} (h : ¬(nbits = 16 ∧ w < 65536)) :
    s.withFetchWord nbits w = s := by
  simp [State.withFetchWord, h]

/-- A placed word stands in some requester's record. -/
theorem slotOf_some {h : Nat} {s : State} {w : Word} (e : slotOf h s = some w) :
    ∃ r, s.reqs[h]? = some r ∧ r.slot = some w := by
  rw [slotOf_eq] at e
  cases hr : s.reqs[h]? with
  | none => simp [hr] at e
  | some r => exact ⟨r, rfl, by simpa [hr] using e⟩

end Sys2Proof.Machine
end

