-- ==== Sys2Proof/Laws/PerInstr.lean ====
section
/-! SUPPORT. A statement about each command as syntax: its word is one that its own row of the opcode map selects. -/

namespace Sys2Proof.Laws.EncodeSelects

/-- The word of i is selected by a row of R72 with i's mnemonic, and its op field is that mnemonic's. -/
def Statement (i : Instr) : Prop :=
  (∃ r ∈ opRows, r.mnemonic = i.mnemonic ∧ r.selects (encode i) = true) ∧ opField (encode i) = i.mnemonic.opcode

theorem reset : Statement .reset := by unfold Statement; decide

theorem wrbit (b : Bool) : Statement (.wrbit b) := by revert b; unfold Statement; decide

theorem rdbit : Statement .rdbit := by unfold Statement; decide

theorem wrbyte (v : Byte) : Statement (.wrbyte v) := by revert v; unfold Statement; decide

theorem rdbyte : Statement .rdbyte := by unfold Statement; decide

theorem crcclr : Statement .crcclr := by unfold Statement; decide

theorem crcfeed (d : Byte) : Statement (.crcfeed d) := by revert d; unfold Statement; decide

theorem crcchk : Statement .crcchk := by unfold Statement; decide

theorem acquire : Statement .acquire := by unfold Statement; decide

theorem release : Statement .release := by unfold Statement; decide

end Sys2Proof.Laws.EncodeSelects
end

