-- ==== Sys2Proof/Machine/Assembler.lean ====
section
/-! DEFINITION. The assembler's text (30_encoding.md R78): one command per line, "the mnemonic, then at most one
operand", numbers "decimal or 0x-prefixed hexadecimal", and `;` starts a comment. -/

namespace Sys2Proof

/-- Why the assembler refuses a line: it "emits no word" (R78). -/
inductive AsmError where
  /-- The first token is none of R78's ten mnemonics. -/
  | unknownMnemonic
  /-- The operand is neither a decimal nor a 0x-prefixed hexadecimal number. -/
  | badNumber
  /-- More than one operand. -/
  | tooManyOperands
  /-- An operand out of range, one that is missing, or one that the mnemonic does not take. -/
  | badOperand
  deriving DecidableEq, Repr

/-- The spelling of each mnemonic (R72, R78). -/
def mnemonicSpellings : List (List Char × Mnemonic) :=
  [ (['R', 'E', 'S', 'E', 'T'], .reset),
    (['W', 'R', 'B', 'I', 'T'], .wrbit),
    (['R', 'D', 'B', 'I', 'T'], .rdbit),
    (['W', 'R', 'B', 'Y', 'T', 'E'], .wrbyte),
    (['R', 'D', 'B', 'Y', 'T', 'E'], .rdbyte),
    (['C', 'R', 'C', 'C', 'L', 'R'], .crcclr),
    (['C', 'R', 'C', 'F', 'E', 'E', 'D'], .crcfeed),
    (['C', 'R', 'C', 'C', 'H', 'K'], .crcchk),
    (['A', 'C', 'Q', 'U', 'I', 'R', 'E'], .acquire),
    (['R', 'E', 'L', 'E', 'A', 'S', 'E'], .release) ]

/-- The value of a digit in the given base. Hexadecimal letters may be of either case (log 19). -/
def digitValue (base : Nat) (c : Char) : Option Nat :=
  let n := c.toNat
  let v :=
    if 48 ≤ n ∧ n ≤ 57 then n - 48
    else if 65 ≤ n ∧ n ≤ 70 then n - 55
    else if 97 ≤ n ∧ n ≤ 102 then n - 87
    else base
  if v < base then some v else none

/-- The digits of a number, most significant first, read onto `acc`. -/
def readDigits (base acc : Nat) : List Char → Option Nat
  | [] => some acc
  | c :: cs =>
    match digitValue base c with
    | some v => readDigits base (acc * base + v) cs
    | none => none

/-- A number: decimal, or hexadecimal after `0x` (R78). -/
def readNumber : List Char → Option Nat
  | [] => none
  | ['0', 'x'] => none
  | '0' :: 'x' :: cs => readDigits 16 0 cs
  | cs => readDigits 10 0 cs

/-- The tokens of a line, cut at spaces and tabs and ended by a comment; `cur` holds the token being read, reversed. -/
def tokens (cur : List Char) : List Char → List (List Char)
  | [] => if cur.isEmpty then [] else [cur.reverse]
  | c :: cs =>
    if c = ';' then (if cur.isEmpty then [] else [cur.reverse])
    else if c = ' ' ∨ c = '\t' then
      (if cur.isEmpty then tokens [] cs else cur.reverse :: tokens [] cs)
    else tokens (c :: cur) cs

/-- A line's command before its operand is checked. A line with nothing but blanks and a comment has none (log 19). -/
def parseLine (line : List Char) : Except AsmError (Option AsmLine) :=
  match tokens [] line with
  | [] => .ok none
  | m :: operands =>
    match mnemonicSpellings.lookup m, operands with
    | none, _ => .error .unknownMnemonic
    | some k, [] => .ok (some ⟨k, none⟩)
    | some k, [v] =>
      match readNumber v with
      | some n => .ok (some ⟨k, some n⟩)
      | none => .error .badNumber
    | some _, _ :: _ :: _ => .error .tooManyOperands

/-- The word of one line of text, if it has a command (R78). -/
def assembleLine (line : List Char) : Except AsmError (Option Word) :=
  match parseLine line with
  | .ok none => .ok none
  | .ok (some l) =>
    match l.toInstr with
    | some i => .ok (some (encode i))
    | none => .error .badOperand
  | .error e => .error e

end Sys2Proof
end

