-- ==== Sys2Proof/Tests/Slice0.lean ====
section
/-! SUPPORT. The row's own tests, their expected values from 95_test_vectors.md and the rules named, and a witness for
the hypotheses of each statement. -/

namespace Sys2Proof.Machine.Tests

/-! ## Helpers -/

/-- A part of the state that a step answers. -/
def part {α : Type} (o : Host.Outcome State Fault Refusal) (f : State → α) : Option α :=
  match o with
  | .next t => some (f t)
  | .fault _ => none
  | .refused _ => none

/-- The answer of an acceptance or a completion: the last event and the accumulator. -/
def answer (o : Host.Outcome State Fault Refusal) : Option (Option Event × Byte) :=
  part o fun t => (t.hist.getLast?, t.crcAcc)

/-- A ready, idle block with a word placed by requester 0 and a schedule. -/
def placed (w : Word) (sched : List Action) : State :=
  { State.reset with ready := true, reqs := [{ Requester.fresh with slot := some w }, Requester.fresh], sched := sched }

/-- A bus command of requester 0 in execution, with the echoes received and the bytes still to be sent. -/
def running (op arg : Byte) (n : FrameLen) (echoes txq : List Byte) (sched : List Action) : State :=
  { State.reset with
    ready := true
    phase := .xfer
    baudMode := (if op = 0x01 then .reset else .normal)
    cur := ⟨0, op, arg⟩
    frArmed := true
    frN := n
    frCnt := echoes.length
    frBuf := Vector.ofFn fun i => echoes.getD i.val 0
    txq := txq
    reqs := [{ Requester.fresh with waiting := true }, Requester.fresh]
    hist := [.reset, .cmd 0 (mkWord op arg)]
    sched := sched }

/-- The same with the frame expired. -/
def expired (s : State) : State := { s with frExpired := true }

/-- The same under TIMED, with k ticks since `arm`. -/
def timedAt (k : Nat) (s : State) : State :=
  { s with params := { s.params with timeoutModel := .timed }, frTimer := k }

/-- The same under ECHO_MODEL = WIRED_AND. -/
def wired (s : State) : State := { s with params := { s.params with echoModel := .wiredAnd } }

/-- A host of requester 0 that waits for the response p to the first statement of a program. -/
def hostWaiting (bang : Bool) (p : Response) : State :=
  { State.reset with
    reqs := [{ Requester.fresh with
      inbox := some p
      host := { HostProc.none with prog := readRom, ctl := .await bang } }] }

/-! ## WellFormed: an ill-formed term for each check -/

theorem test_wf_refuses_missing_operand : AsmLine.wellFormed ⟨.wrbyte, none⟩ = false := by decide
theorem test_wf_refuses_missing_bit : AsmLine.wellFormed ⟨.wrbit, none⟩ = false := by decide
theorem test_wf_refuses_extra_operand : AsmLine.wellFormed ⟨.reset, some 0⟩ = false := by decide
theorem test_wf_refuses_bit_two : AsmLine.wellFormed ⟨.wrbit, some 2⟩ = false := by decide
theorem test_wf_refuses_byte_256 : AsmLine.wellFormed ⟨.crcfeed, some 256⟩ = false := by decide
theorem test_wf_refuses_equal_rates : Params.wellFormed { Params.default with baudReset := 115200 } = false := by decide
theorem test_wf_refuses_stopped_clock : Params.wellFormed { Params.default with ticksPerMs := 0 } = false := by decide
theorem test_wf_refuses_no_acquire : disciplined [.bang .reset, .bang .rdbit, .ret .unit] = false := by decide
theorem test_wf_refuses_no_reset : disciplined [.bang .acquire, .bang .rdbit, .ret .unit] = false := by decide
theorem test_wf_refuses_no_return : disciplined [.bang .acquire, .bang .reset, .bang .rdbit] = false := by decide
theorem test_wf_refuses_ignored_error :
    disciplined [.bang .acquire, .bang .reset, .issue (.cmd .rdbit), .ret .unit] = false := by decide
theorem test_wf_refuses_unchecked_value :
    disciplined ([.bang .acquire, .bang .reset] ++ readBytes 2 ++ [.ret (.bytes 2)]) = false := by decide +kernel
/-- A temperature needs the check of the whole scratchpad (R210). -/
theorem test_wf_refuses_two_byte_check :
    disciplined ([.bang .acquire, .bang .reset] ++ readBytes 9 ++ checkFrame 2 ++ [.temp, .ret .temperature]) = false := by
  decide +kernel
/-- A byte read anew after the check is not the checked one. -/
theorem test_wf_refuses_reread_byte :
    disciplined ([.bang .acquire, .bang .reset] ++ readBytes 8 ++ checkFrame 8 ++ [.readByte 3, .ret (.bytes 8)]) = false := by
  decide +kernel
theorem test_wf_admits_delay_after_check :
    disciplined ([.bang .acquire, .bang .reset] ++ readBytes 8 ++ checkFrame 8 ++ [.delay 10, .ret (.bytes 8)]) = true := by
  decide +kernel
/-- A variable that was never assigned holds no byte that a check could be of. -/
theorem test_wf_refuses_unassigned_bytes :
    disciplined ([.bang .acquire, .bang .reset] ++ checkFrame 8 ++ [.ret (.bytes 8)]) = false := by decide +kernel
/-- The check is of a whole frame read from the device (R102, R203): not of unread bytes, of `crc_acc` fed back, or of the
bytes of two exchanges. -/
theorem test_wf_refuses_frames_not_read :
    disciplined ([.bang .acquire, .bang .reset] ++ readBytes 2 ++ checkFrame 9 ++ [.temp, .ret .temperature]) = false ∧
    disciplined [.bang .acquire, .bang .reset, .readByte 0, .bang .crcclr, .bang (.crcfeed (.var 0)),
      .bang (.crcfeed .data), .bang .crcchk, .ret (.bytes 1)] = false ∧
    disciplined ([.bang .acquire, .bang .reset, .readByte 0, .bang .reset, .readByte 1] ++ checkFrame 2 ++
      [.ret (.bytes 2)]) = false := by decide +kernel
/-- A byte may be fed as soon as it is read. -/
theorem test_wf_admits_feeding_while_reading :
    disciplined [.bang .acquire, .bang .reset, .bang .crcclr, .readByte 0, .bang (.crcfeed .data), .bang .rdbyte,
      .bind 1, .bang (.crcfeed .data), .bang .crcchk, .ret (.bytes 2)] = true := by decide +kernel
/-- CRCCLR, CRCFEED and ACQUIRE have no errors (R103, R104, R181), so an ISSUE of one needs no abort. -/
theorem test_wf_admits_issue_without_error :
    disciplined ([.bang .acquire, .issue (.cmd .acquire), .bang .reset, .readByte 0, .readByte 1, .issue (.word 0x0800),
      .issue (.cmd (.crcfeed (.var 0))), .issue (.cmd (.crcfeed (.var 1))), .bang .crcchk, .ret (.bytes 2)]) = true := by
  decide +kernel
/-- An ISSUE that can fail aborts with its error and nothing else (R202, item 3). -/
theorem test_wf_issue_aborts_with_its_error :
    disciplined [.bang .acquire, .bang .reset, .issue (.cmd .rdbyte), .bind 0, .abort .err] = true ∧
    disciplined [.bang .acquire, .bang .reset, .issue (.cmd .crcchk), .abort (.code 6)] = true ∧
    disciplined [.bang .acquire, .bang .reset, .issue (.cmd .rdbyte), .abort (.code 6)] = false ∧
    disciplined [.bang .acquire, .bang .reset, .issue (.word 0x0000), .bang .crcclr, .abort .err] = false ∧
    disciplined ([.bang .acquire, .bang .reset] ++ readBytes 2 ++ [.bang .crcclr, .bang (.crcfeed (.var 0)),
      .bang (.crcfeed (.var 1)), .issue (.cmd .crcchk), .ret (.bytes 2)]) = false := by decide +kernel
theorem test_wf_refuses_slot_before_reset :
    disciplined [.bang .acquire, .bang .rdbit, .bang .reset, .ret .unit] = false := by decide
theorem test_wf_admits :
    AsmLine.wellFormed ⟨.wrbit, some 1⟩ = true ∧ AsmLine.wellFormed ⟨.wrbyte, some 255⟩ = true ∧
    Params.wellFormed Params.default = true := by decide
/-- Item 2 of R202 asks for RESET as the first bus command, and CRC commands may stand before it. -/
theorem test_wf_admits_programs :
    disciplined readRom = true ∧ disciplined readTemp = true ∧
    disciplined [.bang .acquire, .bang .crcclr, .bang .reset, .abort (.code 6)] = true := by decide +kernel

/-! ## Encoding: words written out from R70 and R72, `op` then `arg` -/

theorem test_decode_reset : decode 0b00000001_00000000 = .ok .reset := by decide
theorem test_decode_wrbit : decode 0b00000010_00000001 = .ok (.wrbit true) := by decide
theorem test_decode_rdbit : decode 0b00000011_00000000 = .ok .rdbit := by decide
theorem test_decode_wrbyte : decode 0b00000100_10111110 = .ok (.wrbyte 0xBE) := by decide
theorem test_decode_rdbyte : decode 0b00000101_00000000 = .ok .rdbyte := by decide
theorem test_decode_crcclr : decode 0b00001000_00000000 = .ok .crcclr := by decide
theorem test_decode_crcfeed : decode 0b00001001_00110011 = .ok (.crcfeed 0x33) := by decide
theorem test_decode_crcchk : decode 0b00001010_00000000 = .ok .crcchk := by decide
theorem test_decode_acquire : decode 0b00001100_00000000 = .ok .acquire := by decide
theorem test_decode_release : decode 0b00001101_00000000 = .ok .release := by decide

/-- 95_test_vectors.md §2.1, its ILLEGAL rows. -/
theorem test_decode_unassigned :
    [0x0000, 0x0600, 0x0700, 0x0B00, 0x0E00, 0xFFFF].map decode =
      [0x00, 0x06, 0x07, 0x0B, 0x0E, 0xFF].map (fun op => Except.error (Illegal.unassignedOpcode op)) := by decide
theorem test_decode_reserved :
    [0x0101, 0x0202, 0x0280, 0x0A01, 0x0D01].map decode =
      [(0x01, 0x01), (0x02, 0x02), (0x02, 0x80), (0x0A, 0x01), (0x0D, 0x01)].map
        (fun (a : Byte × Byte) => Except.error (Illegal.reservedArgBits a.1 a.2)) := by decide

theorem test_table_word_length : decodeTableWord 8 0x01 = none ∧ decodeTableWord 16 0x10100 = none := by decide

/-- R57: a partial word is placed nowhere. -/
theorem test_partial_word_refused : State.reset.withFetchWord 12 0x100 = State.reset := by decide

/-! ## The assembler (R78) -/

theorem test_asm_hex : assembleLine ['W', 'R', 'B', 'Y', 'T', 'E', ' ', '0', 'x', 'B', 'E'] = .ok (some 0x04BE) := by
  decide +kernel
theorem test_asm_decimal_comment :
    assembleLine [' ', 'W', 'R', 'B', 'I', 'T', ' ', '1', ' ', ';', 'x', ' ', 'y'] = .ok (some 0x0201) := by decide +kernel
theorem test_asm_refuses_out_of_range :
    assembleLine ['C', 'R', 'C', 'F', 'E', 'E', 'D', ' ', '2', '5', '6'] = .error .badOperand := by decide +kernel
theorem test_asm_refuses_second_operand :
    assembleLine ['W', 'R', 'B', 'I', 'T', ' ', '1', ' ', '1'] = .error .tooManyOperands := by decide +kernel

/-! ## A step runs a fetched word; the acceptance of each command -/

/-- R151, 95 §2.4: F0 at the reset rate. -/
theorem test_run_reset :
    part (step (State.reset.withFetchWord 16 0x0100)) (fun t => (t.phase, t.baudMode, t.txq, t.frN)) =
      some (.xfer, .reset, [0xF0], .one) := by decide
/-- 95 §2.3. -/
theorem test_run_wrbit :
    part (step (State.reset.withFetchWord 16 0x0201)) (fun t => (t.phase, t.baudMode, t.txq, t.frN)) =
      some (.xfer, .normal, [0xFF], .one) := by decide
theorem test_run_rdbit :
    part (step (State.reset.withFetchWord 16 0x0300)) (fun t => (t.cur, t.txq, t.frArmed)) =
      some (⟨0, 0x03, 0x00⟩, [0xFF], true) := by decide
/-- 95 §2.4: the slots of 0xA5. -/
theorem test_run_wrbyte :
    part (step (State.reset.withFetchWord 16 0x04A5)) (fun t => (t.txq, t.frN)) =
      some ([0xFF, 0x00, 0xFF, 0x00, 0x00, 0xFF, 0x00, 0xFF], .eight) := by decide
theorem test_run_rdbyte :
    part (step (State.reset.withFetchWord 16 0x0500)) (fun t => (t.txq.length, t.frN, waitingOf 0 t)) =
      some (8, .eight, true) := by decide
theorem test_run_crcclr :
    answer (step ({ State.reset with crcAcc := 0x9E }.withFetchWord 16 0x0800)) =
      some (some (.rsp 0 0 0x00), 0x00) := by decide
/-- 95 §2.2, the command vectors. -/
theorem test_run_crcfeed :
    answer (step (State.reset.withFetchWord 16 0x0928)) = some (some (.rsp 0 0 0xE1), 0xE1) := by decide
theorem test_run_crcchk :
    answer (step ({ State.reset with crcAcc := 0x35 }.withFetchWord 16 0x0A00)) =
      some (some (.rsp 0 6 0x35), 0x35) := by decide
/-- 95 §2.5. -/
theorem test_run_acquire :
    part (step (State.reset.withFetchWord 16 0x0C00)) (fun t => (t.lockOwner, t.hist.getLast?, slotOf 0 t)) =
      some (some 0, some (.rsp 0 0 0x00), none) := by decide
theorem test_run_release :
    part (step (State.reset.withFetchWord 16 0x0D00)) (fun t => (t.lockOwner, t.hist.getLast?)) =
      some (none, some (.rsp 0 8 0x00)) := by decide
/-- 95 §2.5: the owner's RELEASE; the word is placed for the owner. -/
theorem test_run_release_owner :
    part (step ({ State.reset with lockOwner := some 1 }.withFetchWord 16 0x0D00))
      (fun t => (t.lockOwner, t.hist.getLast?)) = some (none, some (.rsp 1 0 0x00)) := by decide
/-- 95 §2.5: a word of requester 1 is held while 0 owns the lock. -/
theorem test_word_held :
    part (step { placed 0x0300 [.accept 1] with
        lockOwner := some 0, reqs := [Requester.fresh, { Requester.fresh with slot := some 0x0C00 }] })
      (fun t => (t.phase, slotOf 1 t, t.hist)) = some (.idle, some 0x0C00, [.reset]) := by decide

/-! ## CRC-8 (95 §2.2) -/

theorem test_step8_table :
    [0x00, 0x01, 0x02, 0x04, 0x08, 0x10, 0x20, 0x40, 0x80, 0xFF, 0x33, 0xCC, 0x44, 0xBE, 0x8C, 0xA5].map (step8 0x00) =
      [0x00, 0x5E, 0xBC, 0x61, 0xC2, 0x9D, 0x23, 0x46, 0x8C, 0x35, 0x5C, 0x69, 0x27, 0x2D, 0x2F, 0x90] := by decide
theorem test_crc_rom : crc8 [0x28, 0x01, 0x02, 0x03, 0x04, 0x05, 0x06] = 0x9E := by decide +kernel
theorem test_crc_check : crc8 [0x31, 0x32, 0x33, 0x34, 0x35, 0x36, 0x37, 0x38, 0x39] = 0xA1 := by decide +kernel
theorem test_crc_scratchpads :
    ([[0x50, 0x05], [0x5E, 0xFF], [0x91, 0x01], [0x00, 0x00], [0x90, 0xFC]] : List (List Byte)).map
      (fun p => crc8 (p ++ [0x4B, 0x46, 0x7F, 0xFF, 0x0C, 0x10])) = [0x1C, 0x6A, 0x70, 0xC8, 0x4F] := by decide +kernel

/-! ## Line and completion (95 §2.3, §2.4) -/

theorem test_dec :
    [0x00, 0x01, 0x7F, 0x80, 0xF0, 0xF8, 0xFE, 0xFF].map dec =
      [false, false, false, false, false, false, false, true] := by decide
theorem test_slots :
    [0x33, 0xCC, 0x44].map slots =
      [[0xFF, 0xFF, 0x00, 0x00, 0xFF, 0xFF, 0x00, 0x00], [0x00, 0x00, 0xFF, 0xFF, 0x00, 0x00, 0xFF, 0xFF],
       [0x00, 0x00, 0xFF, 0x00, 0x00, 0x00, 0xFF, 0x00]] := by decide
theorem test_reset_boundaries :
    [0x00, 0x01, 0x0F, 0x10, 0x11, 0x80, 0xE0, 0xE1, 0xEF, 0xF0, 0xF1, 0xFF].map
        (fun p => answer (completeStep (running 0x01 0x00 .one [p] [] []))) =
      [(2, 0x00), (3, 0x01), (3, 0x0F), (0, 0x10), (0, 0x11), (0, 0x80), (0, 0xE0), (3, 0xE1), (3, 0xEF), (1, 0xF0),
       (3, 0xF1), (3, 0xFF)].map (fun (a : Nibble × Byte) => some (some (Event.rsp 0 a.1 a.2), 0x00)) := by decide
theorem test_reset_restores_rate :
    part (completeStep (expired (running 0x01 0x00 .one [] [] []))) (fun t => (t.baudMode, t.phase, t.hist.getLast?)) =
      some (.normal, .idle, some (.rsp 0 4 0x00)) := by decide
theorem test_wrbit_echoes :
    [(0x01, 0xFF), (0x01, 0xFE), (0x00, 0x00), (0x00, 0x01), (0x00, 0xFF)].map
        (fun (a : Byte × Byte) => answer (completeStep (running 0x02 a.1 .one [a.2] [] []))) =
      [(0, 0x01), (5, 0x00), (0, 0x00), (0, 0x00), (5, 0x01)].map
        (fun (a : Nibble × Byte) => some (some (Event.rsp 0 a.1 a.2), 0x00)) := by decide
theorem test_rdbit_echoes :
    [0xFF, 0xF8, 0x00].map (fun e => answer (completeStep (running 0x03 0x00 .one [e] [] []))) =
      [0x01, 0x00, 0x00].map (fun (d : Byte) => some (some (Event.rsp 0 0 d), 0x00)) := by decide
theorem test_wrbyte_mismatch :
    answer (completeStep (running 0x04 0x33 .eight [0xFF, 0xFF, 0x00, 0x00, 0xFF, 0xFE, 0x00, 0x00] [] [])) =
      some (some (.rsp 0 5 0x13), 0x00) := by decide
theorem test_rdbyte_echoes :
    answer (completeStep (running 0x05 0x00 .eight [0x00, 0x00, 0x00, 0xFF, 0x00, 0xFF, 0x00, 0x00] [] [])) =
      some (some (.rsp 0 0 0x28), 0x00) := by decide
/-- R131: no completion before the queue is sent. -/
theorem test_no_completion_before_sent :
    part (completeStep (running 0x02 0x01 .one [0xFF] [0xFF] [])) id = some (running 0x02 0x01 .one [0xFF] [0xFF] []) := by
    decide
/-- 95 §2.3: the byte after a full frame is dropped. -/
theorem test_extra_byte_dropped :
    (lineRx 0x00 (running 0x02 0x01 .one [0xFF] [] [])).hist.getLast? = some (.rx 0x00 false) := by decide
/-- 95 §2.4: F0 leaves at the reset rate. -/
theorem test_reset_line_trace :
    (lineTx (running 0x01 0x00 .one [] [0xF0] [])).hist.getLast? = some (.tx 0xF0 .reset) := by decide
/-- R124: a write-0 slot does not echo 0xFF under WIRED_AND. -/
theorem test_wired_and_refuses :
    lineRx 0xFF (wired (running 0x02 0x00 .one [] [] [])) = wired (running 0x02 0x00 .one [] [] []) := by decide
/-- R123, R284: low periods of the three line bytes. -/
theorem test_low_periods : [0x00, 0xFF, 0xF0].map lowPeriods = [9, 1, 5] := by decide

/-! ## Host side (95 §2.6, §3) -/

theorem test_temperatures :
    [(0x50, 0x05), (0x91, 0x01), (0x00, 0x00), (0xFF, 0xFF), (0x5E, 0xFF), (0x90, 0xFC), (0xD0, 0x07), (0xFF, 0x7F),
     (0x00, 0x80)].map (fun (a : Byte × Byte) => rawTemperature a.1 a.2) =
      [1360, 401, 0, -1, -162, -880, 2000, 32767, -32768] := by decide
/-- 95 P1: "22 commands"; READBYTES has n statements (R203). -/
theorem test_readrom_commands :
    readRom.length = 22 ∧ (readRom.filterMap stmtMnemonic).length = 21 ∧ (readBytes 8).length = 8 := by decide
/-- R203: the byte read is bound when its RDBYTE is answered, and the index moves by one. -/
theorem test_read_byte :
    part (hostStep 0 { State.reset with
        reqs := [{ Requester.fresh with
          inbox := some ⟨0, 0x28⟩, host := { HostProc.none with prog := readBytes 2, ctl := .await true } }] })
      (fun t => t.reqs.map fun r => (r.host.buf, r.host.idx, r.host.ctl)) = some [([some 0x28], 1, .run)] := by decide
/-- 95 P2: CRCCHK's error aborts. -/
theorem test_bang_aborts :
    part (hostStep 0 (hostWaiting true ⟨6, 0x35⟩)) (fun t => t.reqs.map fun r => (r.host.ctl, r.host.d)) =
      some [(.abort 6, 0x35)] := by decide
/-- R78: `CRCFEED $d!`. -/
theorem test_operand_d :
    hostInstr 0 { HostProc.none with d := 0x28 } (.crcfeed .data) = .crcfeed 0x28 := by decide
/-- R201, 95 P7: `ISSUE 0x0202`. -/
theorem test_issue_illegal_word :
    (hostStmt 0 Params.default
      { Requester.fresh with host := { HostProc.none with prog := [.issue (.word 0x0202)] } }).slot = some 0x0202 := by
  decide
/-- R201: a transaction that took the lock by its word knows that it holds it. -/
theorem test_issue_word_acquires :
    holdsAfter { HostProc.none with prog := [.issue (.word 0x0C00)] } .ok = true := by decide
/-- R208: DELAY 800 counts in ticks. -/
theorem test_delay :
    (hostStmt 0 Params.default { Requester.fresh with host := { HostProc.none with prog := readTemp, idx := 4 } }).host.ctl
      = .delay 800 := by decide
/-- R283: `[ACQUIRE!]`, once answered, has no statement left, and its run has not ended. -/
theorem test_ran_out_is_not_ended :
    part (hostStep 0 { State.reset with
        lockOwner := some 0
        reqs := [{ Requester.fresh with
          host := { HostProc.none with prog := [.bang .acquire], idx := 1, ctl := .run, holds := true } }] })
      (fun t => (t.reqs.map (·.host.ctl), runEnded t)) = some ([.ranOut], false) := by decide
/-- R283: the run has ended once the RELEASE of `return` is answered and taken. -/
theorem test_return_ends :
    part (hostStep 0 { State.reset with
        reqs := [{ Requester.fresh with
          inbox := some ⟨0, 0x00⟩
          host := { HostProc.none with prog := [.ret .unit], ctl := .awaitReturn .unit, holds := true } }] })
      runEnded = some true := by decide
/-- R214: the conversion delay is `AwaitingConversion`. -/
theorem test_tx_state :
    txState { HostProc.none with prog := readTemp, idx := 4, ctl := .delay 800 } = .awaitingConversion := by decide

/-! ## Witnesses: for each statement with hypotheses, a state and operands that meet them -/

/-- The invariant holds of a ready, idle block with a word placed. -/
theorem placed_inv (w : Word) (sched : List Action) : Inv (placed w sched) := by
  have hw : ∀ h, waitingOf h (placed w sched) = false := by
    rintro (_ | _ | h) <;> rfl
  refine ⟨fun _ => ⟨rfl, rfl, rfl, rfl, rfl⟩, nofun, nofun, nofun, Nat.zero_le _, nofun, ⟨nofun, nofun⟩, fun h => ?_,
    fun h e => ?_, nofun, nofun, nofun, fun r hr p hp => ?_, nofun, Nat.succ_pos _⟩
  · rw [hw]
    exact ⟨nofun, nofun⟩
  · rw [hw] at e
    cases e
  · simp [placed, Requester.fresh] at hr
    rcases hr with rfl | rfl <;> cases hp

/-- The invariant holds of a bus command in execution, whatever it has received and still has to send. -/
theorem running_inv {i : Instr} {n : FrameLen} {op arg : Byte} {echoes txq : List Byte} (sched : List Action)
    (hn : busFrame i = some n) (hi : encode i = mkWord op arg) (hq : txq <:+ framePatterns ⟨0, op, arg⟩)
    (hc : echoes.length ≤ n.toNat) : Inv (running op arg n echoes txq sched) := by
  have hw : ∀ h, waitingOf h (running op arg n echoes txq sched) = decide (0 = h) := by
    rintro (_ | _ | h) <;> rfl
  refine ⟨nofun, fun _ => rfl, fun _ => ⟨i, hn, hi⟩, fun _ => hq, hc, nofun, ?_, fun h => ?_,
    fun h e => ?_, nofun, nofun, nofun, fun r hr p hp => ?_, nofun, Nat.succ_pos _⟩
  · by_cases h : op = 0x01 <;> simp [running, h]
  · rw [hw]
    simp [running]
  · rw [hw] at e
    simp at e
    subst e
    rfl
  · simp [running, Requester.fresh] at hr
    rcases hr with rfl | rfl <;> cases hp

/-! ### Encoding and the step -/

theorem witness_DecodeOfEncode : (Instr.wrbyte 0xFF).wellFormed = true := by decide
theorem witness_EncodeOfDecode : decode 0x09FF = .ok (.crcfeed 0xFF) := by decide
theorem witness_OpcodeMapSelects :
    ((⟨.wrbit, 0x0200, 0xFFFE⟩ : OpRow) ∈ opRows ∧ OpRow.selects ⟨.wrbit, 0x0200, 0xFFFE⟩ 0x0201 = true) ∧
    decode 0x0201 = .ok (.wrbit true) ∧ decode 0x04FF = .ok (.wrbyte 0xFF) ∧
    decode 0x0900 = .ok (.crcfeed 0x00) := by decide
theorem witness_IllegalWordsRejectedByName :
    ((0x0D : Byte) ∈ [(0x01 : Byte), 0x03, 0x05, 0x08, 0x0A, 0x0C, 0x0D] ∧ (0x01 : Byte) ≠ 0x00) ∧
    (0x02 : Byte).toNat / 2 ≠ 0 := by decide
theorem witness_StepRunsDecodedInstruction :
    (placed 0x0C00 [.accept 0]).sched = [.accept 0] ∧ (placed 0x0C00 [.accept 0]).ready = true ∧
    (placed 0x0C00 [.accept 0]).phase = .idle ∧ slotOf 0 (placed 0x0C00 [.accept 0]) = some 0x0C00 ∧
    (placed 0x0C00 [.accept 0]).lockOwner = none ∧ decode 0x0C00 = .ok .acquire := by decide
/-- A row's word; one bit short; one bit over. -/
theorem witness_FetchedWordRunsNext :
    decodeTableWord 16 0x0100 = some .reset ∧ ¬(15 = 16 ∧ 0x0100 < 65536) ∧ ¬(16 = 16 ∧ 65536 < 65536) := by decide
theorem witness_StepRunsScheduledAgent : (placed 0x0C00 [.timer, .tick]).sched = .timer :: [.tick] := by decide
/-- The slot is empty; the block is busy; another requester owns the lock. -/
theorem witness_HeldWordStays :
    slotOf 1 (placed 0x0C00 [.accept 1]) = none ∧
    (running 0x03 0x00 .one [] [] [.accept 1]).phase ≠ .idle ∧
    ¬({ placed 0x0C00 [.accept 0] with lockOwner := some 1 }.lockOwner = none ∨
      { placed 0x0C00 [.accept 0] with lockOwner := some 1 }.lockOwner = some 0) := by decide
/-- Accepted; and held, since requester 1 owns the lock. -/
theorem witness_IllegalWordAnswered :
    ({ placed 0x0202 [.accept 0] with lockOwner := some 1 }.lockOwner = some 1 ∧
      slotOf 0 { placed 0x0202 [.accept 0] with lockOwner := some 1 } = some 0x0202) ∧
    slotOf 0 (placed 0x0202 [.accept 0]) = some 0x0202 ∧ (placed 0x0202 [.accept 0]).ready = true ∧
    (placed 0x0202 [.accept 0]).lockOwner = none ∧ ∀ i, decode 0x0202 ≠ .ok i :=
  ⟨by decide, by decide, by decide, by decide, fun i h => by
    rw [show decode 0x0202 = .error (.reservedArgBits 0x02 0x02) by decide] at h
    cases h⟩

/-! ### CRC and bit-codec -/

theorem witness_CrcchkChecks : State.reset.crcAcc = 0x00 ∧ { State.reset with crcAcc := 0x01 }.crcAcc ≠ 0x00 := by
  decide
theorem witness_CrcDetectsSingleBit :
    ([0x28, 0x01, 0x02, 0x03, 0x04, 0x05, 0x06, 0x9E] : List Byte)[7]? = some 0x9E ∧ 7 < 8 ∧
    crc8 [0x28, 0x01, 0x02, 0x03, 0x04, 0x05, 0x06, 0x9E] = 0x00 := by decide +kernel
theorem witness_ByteToSlotsAndBack : (slots 0xBE).length = 8 ∧ (7 : Nat) < 8 := by decide
/-- 95 §2.4: WRBYTE 0x33 with a wrong slot, against its eight WRBITs; RDBYTE with alternating echoes. -/
theorem witness_WrbyteEqualsEightWrbits :
    (fullFrame (running 0x04 0x33 .eight [0xFF, 0xFF, 0x00, 0x00, 0xFF, 0xFE, 0x00, 0x00] [] []) 0x04 .eight ∧
      ∀ i : Fin 8,
        fullFrame (running 0x02 (if (0x33 : Byte).getLsbD i then 1 else 0) .one
          [[0xFF, 0xFF, 0x00, 0x00, 0xFF, 0xFE, 0x00, 0x00].getD i 0] [] []) 0x02 .one ∧
        (running 0x02 (if (0x33 : Byte).getLsbD i then 1 else 0) .one
            [[0xFF, 0xFF, 0x00, 0x00, 0xFF, 0xFE, 0x00, 0x00].getD i 0] [] []).frBuf[0] =
          (running 0x04 0x33 .eight [0xFF, 0xFF, 0x00, 0x00, 0xFF, 0xFE, 0x00, 0x00] [] []).frBuf[i]) ∧
    (fullFrame (running 0x05 0x00 .eight (slots 0x55) [] []) 0x05 .eight ∧
      ∀ i : Fin 8, fullFrame (running 0x03 0x00 .one [(slots 0x55).getD i 0] [] []) 0x03 .one ∧
        (running 0x03 0x00 .one [(slots 0x55).getD i 0] [] []).frBuf[0] =
          (running 0x05 0x00 .eight (slots 0x55) [] []).frBuf[i]) := by
  unfold fullFrame
  decide

/-! ### Completion, line and timer -/

theorem witness_ResetCompletes :
    (running 0x01 0x00 .one [0xE0] [] []).phase = .xfer ∧ (running 0x01 0x00 .one [0xE0] [] []).txq = [] ∧
    (running 0x01 0x00 .one [0xE0] [] []).cur.op = 0x01 ∧ (running 0x01 0x00 .one [0xE0] [] []).frN = .one ∧
    (running 0x01 0x00 .one [0xE0] [] []).frCnt = 1 := by decide
theorem witness_BitCommandsComplete :
    ((running 0x02 0x01 .one [0xFE] [] []).phase = .xfer ∧ (running 0x02 0x01 .one [0xFE] [] []).txq = [] ∧
      (running 0x02 0x01 .one [0xFE] [] []).cur = ⟨0, 0x02, (if true then 1 else 0)⟩ ∧
      (running 0x02 0x01 .one [0xFE] [] []).frCnt = 1) ∧
    ((running 0x03 0x00 .one [0xFF] [] []).cur.op = 0x03 ∧ (running 0x03 0x00 .one [0xFF] [] []).frN = .one ∧
      (running 0x03 0x00 .one [0xFF] [] []).frCnt = 1) := by decide
theorem witness_ByteCommandsComplete :
    ((running 0x04 0x33 .eight (slots 0x13) [] []).cur.op = 0x04 ∧
      (running 0x04 0x33 .eight (slots 0x13) [] []).phase = .xfer ∧
      (running 0x04 0x33 .eight (slots 0x13) [] []).frN = .eight ∧
      (running 0x04 0x33 .eight (slots 0x13) [] []).frCnt = 8) ∧
    ((running 0x05 0x00 .eight (slots 0x28) [] []).cur.op = 0x05 ∧
      (running 0x05 0x00 .eight (slots 0x28) [] []).txq = [] ∧
      (running 0x05 0x00 .eight (slots 0x28) [] []).frCnt = 8) := by decide
theorem witness_TimedOutFrameAnswered :
    (expired (running 0x04 0xA5 .eight (List.replicate 7 0xFF) [] [])).phase = .xfer ∧
    (expired (running 0x04 0xA5 .eight (List.replicate 7 0xFF) [] [])).txq = [] ∧
    (expired (running 0x04 0xA5 .eight (List.replicate 7 0xFF) [] [])).frExpired = true ∧
    (expired (running 0x04 0xA5 .eight (List.replicate 7 0xFF) [] [])).frCnt ≠ 8 := by decide
theorem witness_NoCompletionWithoutFrame :
    (running 0x03 0x00 .one [0xFF] [] [.complete]).phase = .xfer ∧
    part (step (running 0x03 0x00 .one [0xFF] [] [.complete])) (·.phase) = some .idle := by decide
theorem witness_LineTxSendsHead :
    (running 0x01 0x00 .one [] [0xF0] []).txq = 0xF0 :: [] ∧ State.reset.txq = [] := by decide
/-- An open frame with its last place free, under ANY and under WIRED_AND, there also with an inadmissible byte; a full frame; an expired one; none armed. -/
theorem witness_LineRxTakesOrDrops :
    (frameOpen (wired (running 0x02 0x00 .one [] [] [])) = true ∧
      (framePatterns (wired (running 0x02 0x00 .one [] [] [])).cur)[0]? = some 0x00 ∧
      (0x01 : Byte) &&& ~~~0x00 ≠ 0x00) ∧
    (frameOpen (wired (running 0x01 0x00 .one [] [] [])) = true ∧
      (framePatterns (wired (running 0x01 0x00 .one [] [] [])).cur)[0]? = some 0xF0 ∧
      (0xF0 : Byte) &&& ~~~0xF0 = 0x00) ∧
    ((running 0x05 0x00 .eight (List.replicate 7 0xFF) [] []).params.echoModel = .any ∧
      frameOpen (running 0x05 0x00 .eight (List.replicate 7 0xFF) [] []) = true) ∧
    frameOpen (running 0x05 0x00 .eight (List.replicate 8 0xFF) [] []) = false ∧
    frameOpen (expired (running 0x05 0x00 .eight [] [] [])) = false ∧ frameOpen State.reset = false := by decide
theorem witness_WiredAndEcho :
    let s := wired (running 0x02 0x00 .one [] [] [.lineRx 0x00])
    Inv s ∧ s.params.echoModel = .wiredAnd ∧ s.phase = .xfer ∧
      ∃ t, step s = .next t ∧ t.hist = s.hist ++ [.rx 0x00 true] := by
  have h := running_inv (i := .wrbit false) (n := .one) (op := 0x02) (arg := 0x00) (echoes := []) (txq := [])
    [.lineRx 0x00] rfl (by decide) (by decide) (by decide)
  exact ⟨⟨h.1, h.2, h.3, h.4, h.5, h.6, h.7, h.8, h.9, h.10, h.11, h.12, h.13, nofun, h.15⟩, rfl, rfl, _, rfl, rfl⟩
/-- UNTIMED; TIMED at the bound; TIMED one tick before it; no open frame. -/
theorem witness_TimerExpiresOpenFrame :
    (frameOpen (running 0x03 0x00 .one [] [] []) = true ∧
      (running 0x03 0x00 .one [] [] []).params.timeoutModel = .untimed) ∧
    (frameOpen (timedAt 500 (running 0x03 0x00 .one [] [] [])) = true ∧
      (timedAt 500 (running 0x03 0x00 .one [] [] [])).frTimer = 500 * Params.default.ticksPerMs) ∧
    ((timedAt 499 (running 0x03 0x00 .one [] [] [])).params.timeoutModel = .timed ∧
      (timedAt 499 (running 0x03 0x00 .one [] [] [])).frTimer < 500 * Params.default.ticksPerMs) ∧
    frameOpen (running 0x03 0x00 .one [0xFF] [] []) = false := by decide
theorem witness_TimedBoundIsExact :
    ((timedAt 500 (running 0x03 0x00 .one [] [] [])).params.timeoutModel = .timed ∧
      frameOpen (timedAt 500 (running 0x03 0x00 .one [] [] [])) = true ∧
      (timedAt 500 (running 0x03 0x00 .one [] [] [])).frTimer = 500 * Params.default.ticksPerMs) ∧
    (frameOpen (timedAt 499 (running 0x03 0x00 .one [] [] [])) = true ∧
      (timedAt 499 (running 0x03 0x00 .one [] [] [])).frTimer < 500 * Params.default.ticksPerMs) := by decide

/-! ### Lock and reset -/

/-- The owner; nobody's lock; another's lock. -/
theorem witness_ReleaseFreesLock :
    { State.reset with lockOwner := some 0 }.lockOwner = some State.reset.reqId ∧
    State.reset.lockOwner ≠ some State.reset.reqId ∧
    { State.reset with lockOwner := some 1 }.lockOwner ≠ some State.reset.reqId := by decide
theorem witness_LockOutlivesErrors :
    { placed 0x0D00 [.accept 0] with lockOwner := some 0 }.lockOwner = some 0 ∧
    part (step { placed 0x0D00 [.accept 0] with lockOwner := some 0 }) (·.lockOwner) = some none := by decide
theorem witness_OnlyOwnerIsAccepted :
    { placed 0x0A00 [.accept 0] with lockOwner := some 0 }.lockOwner = some 0 ∧
    part (step { placed 0x0A00 [.accept 0] with lockOwner := some 0 }) (·.hist) =
      some ([.reset] ++ [.cmd 0 0x0A00, .rsp 0 0 0x00]) := by decide
theorem witness_LockProtectsCrc :
    { placed 0x0933 [.accept 0] with lockOwner := some 1 }.lockOwner = some 1 ∧
    nextAction { placed 0x0933 [.accept 0] with lockOwner := some 1 } = .accept 0 ∧
    part (step { placed 0x0933 [.accept 0] with lockOwner := some 1 }) (·.crcAcc) = some 0x00 := by decide
theorem witness_ReadyStaysUntilReset :
    (placed 0x0100 [.blockReset]).ready = true ∧
    ∃ t, step (placed 0x0100 [.blockReset]) = .next t ∧ t.ready = false := ⟨rfl, _, rfl, rfl⟩

/-! ### Whole-machine rules -/

theorem witness_StepKeepsInvariant : Inv (running 0x01 0x00 .one [] [0xF0] [.lineTx]) :=
  running_inv (i := .reset) _ rfl (by decide) (by decide) (by decide)
theorem witness_IdleBlockIsQuiet :
    ((placed 0x0500 [.accept 0]).phase = .idle ∧ part (step (placed 0x0500 [.accept 0])) (·.phase) = some .xfer) ∧
    Inv (running 0x01 0x00 .one [0xE0] [] [.complete]) ∧
    part (step (running 0x01 0x00 .one [0xE0] [] [.complete])) (·.phase) = some .idle :=
  ⟨by decide, running_inv (i := .reset) _ rfl (by decide) (by decide) (by decide), by decide⟩
theorem witness_NoAcceptanceAtResetRate :
    Inv (running 0x01 0x00 .one [] [] []) ∧ (running 0x01 0x00 .one [] [] []).baudMode = .reset :=
  ⟨running_inv (i := .reset) _ rfl (by decide) (by decide) (by decide), rfl⟩
/-- At the acceptance and at the completion of RESET. -/
theorem witness_BaudChangesOnQuietLine :
    (Inv (placed 0x0100 [.accept 0]) ∧ part (step (placed 0x0100 [.accept 0])) (·.baudMode) = some .reset ∧
      (placed 0x0100 [.accept 0]).baudMode ≠ .reset) ∧
    (Inv (running 0x01 0x00 .one [0xE0] [] [.complete]) ∧
      part (step (running 0x01 0x00 .one [0xE0] [] [.complete])) (·.baudMode) = some .normal ∧
      (running 0x01 0x00 .one [0xE0] [] [.complete]).baudMode ≠ .normal) :=
  ⟨⟨placed_inv _ _, by decide, by decide⟩,
    running_inv (i := .reset) _ rfl (by decide) (by decide) (by decide), by decide, by decide⟩
theorem witness_HistoryOnlyGrows :
    part (step (placed 0x0A00 [.accept 0])) (·.hist) = some [.reset, .cmd 0 0x0A00, .rsp 0 0 0x00] := by decide
theorem witness_ExchangesOnlyInXfer :
    Inv (running 0x03 0x00 .one [] [] [.lineRx 0xF8]) ∧
    part (step (running 0x03 0x00 .one [] [] [.lineRx 0xF8])) (·.hist) =
      some ([.reset, .cmd 0 0x0300] ++ [.rx 0xF8 true]) ∧ exchangeEvent (.rx 0xF8 true) = true :=
  ⟨running_inv (i := .rdbit) _ rfl (by decide) (by decide) (by decide), by decide, by decide⟩
theorem witness_OneResponsePerCommand :
    Inv (running 0x03 0x00 .one [0xFF] [] [.complete]) ∧ Accounted (running 0x03 0x00 .one [0xFF] [] [.complete]) ∧
    part (step (running 0x03 0x00 .one [0xFF] [] [.complete])) (fun t => outstanding 0 t.hist) = some 0 :=
  ⟨running_inv (i := .rdbit) _ rfl (by decide) (by decide) (by decide), by rintro (_ | _ | h) <;> rfl, by decide⟩
theorem witness_ParametersFixed :
    part (step (placed 0x0A00 [.accept 0])) (fun t => (t.params, t.reqs.length)) = some (Params.default, 2) := by decide
/-- A command changes each of the fields that AcceptanceWrites names. -/
theorem witness_AcceptanceWrites :
    part (exec (.crcfeed 0x01) State.reset) (·.crcAcc) = some 0x5E ∧
    part (exec .acquire State.reset) (·.lockOwner) = some (some 0) ∧
    part (exec .reset State.reset) (·.baudMode) = some .reset ∧ busFrame .crcchk = none := by decide
theorem witness_WordPlacedOnlyWhenFree :
    part (step { State.reset with sched := [.place 1 0x0300] }) (slotOf 1) = some (some 0x0300) ∧
    slotOf 1 { State.reset with sched := [.place 1 0x0300] } ≠ some 0x0300 := by decide
/-- RDBIT with its echo taken before its slot is sent, and an extra byte after. -/
theorem witness_BusExchangeAnswers :
    let as : List Action := [.lineRx 0xF8, .lineTx, .lineRx 0xFF]
    let s := placed 0x0300 (.accept 0 :: (as ++ .complete :: []))
    Inv s ∧ s.params.echoModel = .any ∧ busFrame .rdbit = some .one ∧ s.ready = true ∧ s.phase = .idle ∧
      slotOf 0 s = some (encode .rdbit) ∧ s.lockOwner = none ∧ (∀ a ∈ as, isLineStep a = true) ∧
      1 ≤ as.count .lineTx ∧ 1 ≤ (rxBytes as).length :=
  ⟨placed_inv _ _, rfl, rfl, rfl, rfl, by decide, rfl, by decide, by decide, by decide⟩
theorem witness_BusCommandEndsByExpiry :
    let s := running 0x01 0x00 .one [] [0xF0] [.lineTx, .timer, .complete]
    Inv s ∧ s.params.timeoutModel = .untimed ∧ s.phase = .xfer ∧
      s.sched = List.replicate s.txq.length .lineTx ++ .timer :: .complete :: [] ∧ s.frCnt < s.frN.toNat :=
  ⟨running_inv (i := .reset) _ rfl (by decide) (by decide) (by decide), rfl, rfl, rfl, by decide⟩

/-- The agent steps of a fair run: RESET's byte is sent, its frame expires, it completes, and time passes for ever. -/
def fairSteps : Nat → Action
  | 0 => .lineTx
  | 1 => .timer
  | 2 => .complete
  | _ + 3 => .tick

/-- The states of that run. -/
def fairRun : Nat → State
  | 0 => running 0x01 0x00 .one [] [0xF0] []
  | 1 => { running 0x01 0x00 .one [] [] [] with
      turn := 1, hist := [.reset, .cmd 0 0x0100, .tx 0xF0 .reset] }
  | 2 => { running 0x01 0x00 .one [] [] [] with
      turn := 2, frExpired := true, hist := [.reset, .cmd 0 0x0100, .tx 0xF0 .reset, .expire] }
  | k + 3 => { State.reset with
      ready := true
      cur := ⟨0, 0x01, 0x00⟩
      turn := k + 3
      reqs := [{ Requester.fresh with inbox := some ⟨4, 0x00⟩ }, Requester.fresh]
      hist := [.reset, .cmd 0 0x0100, .tx 0xF0 .reset, .expire, .rsp 0 4 0x00] }

theorem witness_FairRunReachesCompletion :
    IsRun fairSteps fairRun ∧ Inv (fairRun 0) ∧ FairLineTx fairSteps fairRun ∧ FairTimer fairRun ∧
    (fairRun 0).phase = .xfer := by
  refine ⟨?_, running_inv (i := .reset) _ rfl (by decide) (by decide) (by decide), ?_, ?_, rfl⟩
  · rintro (_ | _ | _ | k) <;> rfl
  · rintro (_ | _ | _ | k) h
    · exact ⟨0, Nat.le_refl 0, rfl⟩
    · exact absurd rfl h
    · exact absurd rfl h
    · exact absurd rfl h
  · rintro (_ | _ | _ | k) h
    · exact ⟨2, by decide, rfl⟩
    · exact ⟨2, by decide, rfl⟩
    · cases h
    · cases h

/-! ### Host side -/

/-- Answered OK, and answered with an error. -/
theorem witness_BangStatementAborts :
    (∃ r, (hostWaiting true ⟨0, 0x00⟩).reqs[0]? = some r ∧ r.host.ctl = .await true ∧ r.inbox = some ⟨0, 0x00⟩) ∧
    (∃ r, (hostWaiting true ⟨8, 0x00⟩).reqs[0]? = some r ∧ r.host.ctl = .await true ∧ r.inbox = some ⟨8, 0x00⟩) ∧
    (8 : Nibble).toNat ≤ 8 := ⟨⟨_, rfl, rfl, rfl⟩, ⟨_, rfl, rfl, rfl⟩, by decide⟩
/-- A host of requester 0 at a point of its program, with the lock or without. -/
def hostAt (ctl : HostCtl) (holds : Bool) (inbox : Option Response) : State :=
  { State.reset with
    reqs := [{ Requester.fresh with
      inbox := inbox
      host := { HostProc.none with prog := [.abort (.code 6)], ctl := ctl, holds := holds } }] }

/-- Each of a host's three waits, at the lowest reserved code. -/
theorem witness_ReservedCodeFaults :
    (∃ r, (hostAt (.await false) true (some ⟨9, 0x00⟩)).reqs[0]? = some r ∧ r.host.ctl = .await false ∧
      r.inbox = some ⟨9, 0x00⟩) ∧
    (∃ r, (hostAt (.awaitAbort 6) true (some ⟨9, 0x00⟩)).reqs[0]? = some r ∧ r.host.ctl = .awaitAbort 6 ∧
      r.inbox = some ⟨9, 0x00⟩) ∧
    (∃ r, (hostAt (.awaitReturn .unit) true (some ⟨9, 0x00⟩)).reqs[0]? = some r ∧ r.host.ctl = .awaitReturn .unit ∧
      r.inbox = some ⟨9, 0x00⟩) ∧ 9 ≤ (9 : Nibble).toNat :=
  ⟨⟨_, rfl, rfl, rfl⟩, ⟨_, rfl, rfl, rfl⟩, ⟨_, rfl, rfl, rfl⟩, by decide⟩

/-- At the statement; aborting with the lock and without; with the RELEASE answered. -/
theorem witness_AbortStatementEnds :
    (∃ r, (hostAt .run true none).reqs[0]? = some r ∧ r.host.ctl = .run ∧
      r.host.prog[r.host.idx]? = some (.abort (.code 6))) ∧
    (∃ r, (hostAt (.abort 6) true none).reqs[0]? = some r ∧ r.host.ctl = .abort 6 ∧ r.host.holds = true ∧
      r.slot = none ∧ r.waiting = false) ∧
    (∃ r, (hostAt (.abort 6) false none).reqs[0]? = some r ∧ r.host.ctl = .abort 6 ∧ r.host.holds = false) ∧
    (∃ r, (hostAt (.awaitAbort 6) true (some ⟨8, 0x00⟩)).reqs[0]? = some r ∧ r.host.ctl = .awaitAbort 6 ∧
      r.inbox = some ⟨8, 0x00⟩) ∧ (8 : Nibble).toNat ≤ 8 :=
  ⟨⟨_, rfl, rfl, rfl⟩, ⟨_, rfl, rfl, rfl, rfl, rfl⟩, ⟨_, rfl, rfl, rfl⟩, ⟨_, rfl, rfl, rfl⟩, by decide⟩

end Sys2Proof.Machine.Tests
end

section
/-! PROOF. The statements of 00_scope.md: a step is the scheduled agent's (R6), a bus command does not complete
without its bytes or an expiry (R7), and on a fair run it comes to its completion (R8). -/

namespace Sys2Proof.Machine

/-! ## The scheduled agent -/

theorem nextAction_of_sched {s : State} {a : Action} {rest : List Action} (h : s.sched = a :: rest) :
    nextAction s = a := by
  simp [nextAction, h]

theorem advance_of_sched {s : State} {a : Action} {rest : List Action} (h : s.sched = a :: rest) :
    advance s = { s with sched := rest, turn := s.turn + 1 } := by
  simp [advance, h]

/-- Settles O8: with the head of the schedule known, both halves of `step` are. -/
theorem stepRunsScheduledAgent : Obligations.StepRunsScheduledAgent := by
  intro s a rest h
  rw [step, nextAction_of_sched h, advance_of_sched h]

/-! ## A step from XFER -/

/-- What a step from XFER that neither completes the command nor resets the block keeps of the exchange: the frame stays
armed at its length and within it, the queue does not grow, and a frame that has stopped waiting does not wait again. -/
structure XferStep (s t : State) : Prop where
  phase : t.phase = .xfer
  armed : t.frArmed = s.frArmed
  count_le : s.frCnt ≤ s.frN.toNat → t.frCnt ≤ t.frN.toNat
  queue : t.txq.length ≤ s.txq.length
  closed : frameOpen s = false → frameOpen t = false

/-- A step that touches neither the queue nor the frame. -/
theorem XferStep.of_exchange_eq {s t : State} (hp : t.phase = .xfer) (armed : t.frArmed = s.frArmed)
    (len : t.frN = s.frN) (cnt : t.frCnt = s.frCnt) (expired : t.frExpired = s.frExpired) (queue : t.txq = s.txq) :
    XferStep s t where
  phase := hp
  armed := armed
  count_le h := by rw [cnt, len]; exact h
  queue := by rw [queue]
  closed h := by simpa only [frameOpen, armed, len, cnt, expired] using h

theorem canAccept_xfer {s : State} (hp : s.phase = .xfer) (h : Nat) : canAccept h s = false := by
  simp [canAccept, hp]

/-- From XFER an agent step is block reset, or a completion that is enabled, or goes on with the exchange: no command is
accepted, since the gate wants an idle block (R180). -/
theorem Effect.from_xfer {a : Action} {s t : State} (e : Effect a s t) (hp : s.phase = .xfer) :
    (a = .blockReset ∧ t.phase = .idle) ∨ canComplete s = true ∨ XferStep s t := by
  have held : ∀ {h}, canAccept h s ≠ true := by simp [canAccept_xfer hp]
  cases e with
  | idle => exact .inr (.inr (.of_exchange_eq hp rfl rfl rfl rfl rfl))
  | place => exact .inr (.inr (.of_exchange_eq hp rfl rfl rfl rfl rfl))
  | start => exact .inr (.inr (.of_exchange_eq hp rfl rfl rfl rfl rfl))
  | host => exact .inr (.inr (.of_exchange_eq hp rfl rfl rfl rfl rfl))
  | bus h w i n _ gate => exact absurd gate held
  | answer h w i _ e d acc owner gate => exact absurd gate held
  | illegal h w _ gate => exact absurd gate held
  | complete _ _ _ enabled => exact .inr (.inl enabled)
  | lineTx _ b bs queue => exact .inr (.inr ⟨hp, rfl, id, by simp [queue], id⟩)
  | rxTaken _ _ frame =>
    obtain ⟨-, -, short⟩ := (frameOpen_iff s).1 frame
    exact .inr (.inr ⟨hp, rfl, fun _ => short, le_rfl, fun h => by simp [frame] at h⟩)
  | rxDropped => exact .inr (.inr (.of_exchange_eq hp rfl rfl rfl rfl rfl))
  | expire _ frame => exact .inr (.inr ⟨hp, rfl, id, le_rfl, fun h => by simp [frame] at h⟩)
  | tick => exact .inr (.inr (.of_exchange_eq hp rfl rfl rfl rfl rfl))
  | lineReady => exact .inr (.inr (.of_exchange_eq hp rfl rfl rfl rfl rfl))
  | blockReset => exact .inl ⟨rfl, rfl⟩

/-- Settles O29: of the three ways a step can leave a state in XFER, only block reset and an enabled completion can lead
to IDLE. -/
theorem noCompletionWithoutFrame : Obligations.NoCompletionWithoutFrame := by
  intro s t hp hs hidle
  rcases (step_effect hs).from_xfer hp with ⟨reset, -⟩ | enabled | goesOn
  · exact .inl reset
  · obtain ⟨-, sent, ended⟩ := (canComplete_iff (advance s)).1 enabled
    exact .inr ⟨sent, ended⟩
  · exact absurd goesOn.phase (by simp [hidle])

/-! ## Fair runs (R8) -/

/-- The n-th step of a run from XFER leads to IDLE, or a completion was enabled, or it goes on with the exchange. -/
theorem IsRun.from_xfer {a : Nat → Action} {r : Nat → State} (run : IsRun a r) {n : Nat} (hp : (r n).phase = .xfer) :
    (r (n + 1)).phase = .idle ∨ canComplete (r n) = true ∨ XferStep (r n) (r (n + 1)) := by
  rcases (step_effect (run n)).from_xfer hp with ⟨-, idle⟩ | enabled | ⟨phase, armed, count, queue, closed⟩
  · exact .inl idle
  · exact .inr (.inl enabled)
  · exact .inr (.inr ⟨phase, armed, count, queue, closed⟩)

theorem lineTx_txq (s : State) : (lineTx s).txq = s.txq.tail := by
  rcases lineTx_cases s with ⟨h, h'⟩ | ⟨b, bs, h, h'⟩ <;> simp [h, h']

/-- LINE_TX's turn on a run takes the head off the queue. -/
theorem IsRun.txq_lineTx {a : Nat → Action} {r : Nat → State} (run : IsRun a r) {n : Nat} (turn : a n = .lineTx) :
    (r (n + 1)).txq = (r n).txq.tail := by
  have h := run n
  rw [turn] at h
  injection h with h
  rw [← h]
  exact lineTx_txq _

section
variable {a : Nat → Action} {r : Nat → State} {n : Nat} (goesOn : ∀ m, n ≤ m → XferStep (r m) (r (m + 1)))
include goesOn

theorem txq_length_le {m m' : Nat} (hm : n ≤ m) (h : m ≤ m') : (r m').txq.length ≤ (r m).txq.length := by
  induction m', h using Nat.le_induction with
  | base => exact le_rfl
  | succ k hk ih => exact (goesOn k (hm.trans hk)).queue.trans ih

/-- While the exchange goes on, a weakly fair LINE_TX empties the queue: each of its turns shortens it. -/
theorem txq_eventually_empty (run : IsRun a r) (fair : FairLineTx a r) {m : Nat} (hm : n ≤ m) :
    ∃ m', m ≤ m' ∧ (r m').txq = [] := by
  induction hk : (r m).txq.length using Nat.strong_induction_on generalizing m with
  | _ k ih =>
    by_cases empty : (r m).txq = []
    · exact ⟨m, le_rfl, empty⟩
    · obtain ⟨j, hj, turn⟩ := fair m empty
      have pos : 0 < (r m).txq.length := List.length_pos_iff.2 empty
      have notLonger : (r j).txq.length ≤ (r m).txq.length := txq_length_le goesOn hm hj
      have shorter : (r (j + 1)).txq.length < k := by
        rw [run.txq_lineTx turn, List.length_tail]
        omega
      obtain ⟨m', hm', done⟩ := ih _ shorter (by omega) rfl
      exact ⟨m', by omega, done⟩

theorem frame_stays_closed {m m' : Nat} (hm : n ≤ m) (h : m ≤ m') (closed : frameOpen (r m) = false) :
    frameOpen (r m') = false := by
  induction m', h using Nat.le_induction with
  | base => exact closed
  | succ k hk ih => exact (goesOn k (hm.trans hk)).closed ih

/-- The frame of the command in execution stays armed and is never overfull. -/
theorem frame_armed_within {m : Nat} (hm : n ≤ m) (armed : (r n).frArmed = true)
    (within : (r n).frCnt ≤ (r n).frN.toNat) : (r m).frArmed = true ∧ (r m).frCnt ≤ (r m).frN.toNat := by
  induction m, hm using Nat.le_induction with
  | base => exact ⟨armed, within⟩
  | succ k hk ih => exact ⟨(goesOn k hk).armed.trans ih.1, (goesOn k hk).count_le ih.2⟩

end

/-- An armed frame that waits no more is full or expired, so with the queue sent the completion is enabled (R131). -/
theorem canComplete_of_closed {s : State} (hp : s.phase = .xfer) (sent : s.txq = []) (armed : s.frArmed = true)
    (within : s.frCnt ≤ s.frN.toNat) (closed : frameOpen s = false) : canComplete s = true := by
  refine (canComplete_iff s).2 ⟨hp, sent, ?_⟩
  by_contra h
  obtain ⟨notFull, notExpired⟩ := not_or.1 h
  have waits : frameOpen s = true :=
    (frameOpen_iff s).2 ⟨armed, by simpa using notExpired, lt_of_le_of_ne within notFull⟩
  simp [waits] at closed

/-- Settles O56. If the block neither idles nor can complete, the exchange goes on for ever; then TIMER's fairness closes
the frame, LINE_TX's empties the queue after that, and the completion is enabled all the same. -/
theorem fairRunReachesCompletion : Obligations.FairRunReachesCompletion := by
  intro a r n run inv fairTx fairTimer hp
  by_contra never
  push Not at never
  have inXfer : ∀ m, n ≤ m → (r m).phase = .xfer := fun m hm => by
    have notIdle := (never m hm).1
    cases h : (r m).phase with
    | idle => exact absurd h notIdle
    | xfer => rfl
  have goesOn : ∀ m, n ≤ m → XferStep (r m) (r (m + 1)) := fun m hm =>
    ((run.from_xfer (inXfer m hm)).resolve_left (never (m + 1) (by omega)).1).resolve_left (never m hm).2
  obtain ⟨j, hj, closed⟩ : ∃ j, n ≤ j ∧ frameOpen (r j) = false := by
    cases h : frameOpen (r n) with
    | true => exact fairTimer n h
    | false => exact ⟨n, le_rfl, h⟩
  obtain ⟨m, hm, sent⟩ := txq_eventually_empty goesOn run fairTx hj
  have hnm : n ≤ m := hj.trans hm
  obtain ⟨armed, within⟩ := frame_armed_within goesOn hnm (inv.xfer_armed hp) inv.count_le
  exact (never m hnm).2 (canComplete_of_closed (inXfer m hnm) sent armed within (frame_stays_closed goesOn hj hm closed))

end Sys2Proof.Machine
end

section
/-! PROOF. The statements of 10_state.md: the reset state (R37), the word that `withFetchWord` places, what the acceptance
of a command may write (R31), the history (R36), when a word enters a slot (R34), and the invariant (R35), which holds at
reset and is kept by every step. -/

namespace Sys2Proof.Machine

/-! ## The reset state (R37) -/

theorem getElem?_reset_reqs {h : Nat} {r : Requester} (e : State.reset.reqs[h]? = some r) : r = Requester.fresh := by
  have mem : r ∈ [Requester.fresh, Requester.fresh] := List.mem_of_getElem? e
  simpa using mem

theorem slotOf_reset (h : Nat) : slotOf h State.reset = none := by
  rw [slotOf_eq, Option.bind_eq_none_iff]
  intro r hr
  rw [getElem?_reset_reqs hr]
  rfl

theorem waitingOf_reset (h : Nat) : waitingOf h State.reset = false := by
  rw [waitingOf_eq]
  cases hr : State.reset.reqs[h]? with
  | none => rfl
  | some r => rw [getElem?_reset_reqs hr]; rfl

/-- Settles O41: the block's fields by evaluation, the requesters' by their look-ups. -/
theorem resetStateValues : Obligations.ResetStateValues :=
  ⟨rfl, rfl, rfl, rfl, rfl, rfl, rfl, rfl, rfl, fun h => ⟨slotOf_reset h, waitingOf_reset h⟩⟩

/-! ## The word that `withFetchWord` places -/

theorem decodeTableWord_some {nbits w : Nat} {i : Instr} (e : decodeTableWord nbits w = some i) :
    nbits = 16 ∧ w < 65536 ∧ decode (BitVec.ofNat 16 w) = .ok i := by
  unfold decodeTableWord at e
  split at e
  · rename_i whole
    split at e
    · rename_i j hj
      cases e
      exact ⟨whole.1, whole.2, hj⟩
    · cases e
  · cases e

theorem decodeTableWord_partial {nbits w : Nat} (h : ¬(nbits = 16 ∧ w < 65536)) : decodeTableWord nbits w = none :=
  if_neg h

/-- The word stands in its requester's slot: the list of requesters is long enough. -/
theorem slotOf_placeFetched (w : Word) (s : State) : slotOf (fetchRequester s) (placeFetched w s) = some w := by
  have long : fetchRequester s < (s.reqs ++
      List.replicate (fetchRequester s + 1 - s.reqs.length) Requester.fresh).length := by
    rw [List.length_append, List.length_replicate]
    omega
  simp only [slotOf_eq, placeFetched, List.getElem?_modify_eq, List.getElem?_eq_getElem long]
  rfl

/-- R180 admits the requester the word was placed for: it is the lock's owner, or the lock is free. -/
theorem canAccept_placeFetched (w : Word) (s : State) : canAccept (fetchRequester s) (placeFetched w s) = true := by
  refine (canAccept_iff _ _).2 ⟨rfl, rfl, ⟨w, slotOf_placeFetched w s⟩, ?_⟩
  show s.lockOwner = none ∨ s.lockOwner = some (s.lockOwner.getD 0)
  cases s.lockOwner with
  | none => exact .inl rfl
  | some o => exact .inr rfl

/-- The acceptance of a legal word that the gate admits is the command's meaning (R180, R77). -/
theorem acceptStep_of_legal {h : Nat} {s : State} {w : Word} {i : Instr} (gate : canAccept h s = true)
    (slot : slotOf h s = some w) (legal : decode w = .ok i) : acceptStep h s = exec i { s with reqId := h } := by
  simp [acceptStep, gate, slot, legal]

/-- Settles O7: the placed word passes the gate, and CTRL's turn to it is first in the schedule. -/
theorem fetchedWordRunsNext : Obligations.FetchedWordRunsNext := by
  constructor
  · intro s nbits w i e
    obtain ⟨rfl, fits, legal⟩ := decodeTableWord_some e
    rw [withFetchWord_word s fits]
    exact acceptStep_of_legal (s := advance (placeFetched (BitVec.ofNat 16 w) s))
      ((canAccept_advance _ _).trans (canAccept_placeFetched _ s))
      ((slotOf_advance _ _).trans (slotOf_placeFetched _ s)) legal
  · intro s nbits w h
    exact ⟨decodeTableWord_partial h, withFetchWord_partial s h⟩

/-! ## What an acceptance writes, and the history -/

/-- Settles O52: a bus command's acceptance is `accept_bus` (R137), any other's an answer at once. -/
theorem acceptanceWrites : Obligations.AcceptanceWrites := by
  intro i s
  cases hn : busFrame i with
  | some n =>
    refine ⟨_, exec_bus hn s, ?_⟩
    rw [acceptBus_eq]
    have rate : (if decide (i = .reset) then BaudMode.reset else s.baudMode) ≠ s.baudMode → i = .reset := by
      intro changed
      by_contra other
      simp [other] at changed
    exact ⟨fun h => absurd rfl h, fun h => absurd rfl h, rate, nofun, rfl, rfl, rfl, rfl, rfl⟩
  | none =>
    obtain ⟨e, d, acc, owner, h, crc, lock⟩ := exec_local hn s
    refine ⟨_, h, crc, fun changed => ?_, fun h => absurd rfl h, fun _ => ⟨rfl, rfl, rfl, rfl, rfl, rfl, rfl, rfl⟩,
      rfl, rfl, rfl, rfl, rfl⟩
    exact (lock changed).imp (·.1) (·.1)

/-- What each effect appends to the history: at most an acceptance and its answer (R36). -/
theorem Effect.hist_grows {a : Action} {s t : State} (e : Effect a s t) :
    ∃ es, t.hist = s.hist ++ es ∧ es.length ≤ 2 := by
  have unchanged : ∃ es, s.hist = s.hist ++ es ∧ es.length ≤ 2 := ⟨[], by simp, by simp⟩
  have one : ∀ x, ∃ es, s.hist ++ [x] = s.hist ++ es ∧ es.length ≤ 2 := fun x => ⟨[x], rfl, by simp⟩
  have two : ∀ x y, ∃ es, s.hist ++ [x, y] = s.hist ++ es ∧ es.length ≤ 2 := fun x y => ⟨[x, y], rfl, by simp⟩
  cases e with
  | idle => exact unchanged
  | place => exact unchanged
  | start => exact unchanged
  | host => exact unchanged
  | bus => rw [acceptBus_eq]; exact one _
  | answer => exact two _ _
  | illegal => exact two _ _
  | complete => exact one _
  | lineTx => exact one _
  | rxTaken => exact one _
  | rxDropped => exact one _
  | expire => exact one _
  | tick => exact unchanged
  | lineReady => exact unchanged
  | blockReset => exact one _

/-- Settles O48: whatever agent moves, its effect appends at most two events. -/
theorem historyOnlyGrows : Obligations.HistoryOnlyGrows := fun _ _ hs => (step_effect hs).hist_grows

/-! ## What a host's move does to the look-ups (R34) -/

theorem canPlace_iff (r : Requester) : canPlace r = true ↔ r.slot = none ∧ r.waiting = false := by
  simp [canPlace]

section
variable {h : Nat} {f : Requester → Requester} {s : State} (move : ∀ r, s.reqs[h]? = some r → HostMove r (f r))
include move

theorem waitingOf_hostMove (k : Nat) : waitingOf k (updReq h f s) = waitingOf k s := by
  by_cases hk : h = k
  · subst hk
    rw [waitingOf_modify_self rfl, waitingOf_eq]
    cases hr : s.reqs[h]? with
    | none => rfl
    | some r => simp [(move r hr).waiting]
  · exact waitingOf_modify_ne rfl hk

/-- A host's move changes no slot but its own requester's, and that only where R34 lets it place a word. -/
theorem slotOf_hostMove (k : Nat) :
    slotOf k (updReq h f s) = slotOf k s ∨ (h = k ∧ slotOf k s = none ∧ waitingOf k s = false) := by
  by_cases hk : h = k
  · subst hk
    rw [slotOf_modify_self rfl, slotOf_eq, waitingOf_eq]
    cases hr : s.reqs[h]? with
    | none => exact .inl rfl
    | some r =>
      rcases (move r hr).slot with same | ⟨free, -⟩
      · exact .inl same
      · exact .inr ⟨rfl, (canPlace_iff r).1 free⟩
  · exact .inl (slotOf_modify_ne rfl hk)

end

/-- A change of one record that keeps the slot or empties it brings no word into any slot. -/
theorem slotOf_modify_cleared {s t : State} {h k : Nat} {f : Requester → Requester} {w : Word}
    (placed : slotOf k t = some w) (e : t.reqs = s.reqs.modify h f)
    (clears : ∀ r, s.reqs[h]? = some r → (f r).slot = none ∨ (f r).slot = r.slot) : slotOf k s = some w := by
  by_cases hk : h = k
  · subst hk
    rw [slotOf_modify_self e, Option.bind_eq_some_iff] at placed
    obtain ⟨r, hr, word⟩ := placed
    rw [slotOf_eq, hr]
    rcases clears r hr with empty | same
    · simp [empty] at word
    · simpa [same] using word
  · rwa [← slotOf_modify_ne e hk]

/-- The same for a change of every record. -/
theorem slotOf_map_cleared {s t : State} {k : Nat} {f : Requester → Requester} {w : Word}
    (placed : slotOf k t = some w) (e : t.reqs = s.reqs.map f)
    (clears : ∀ r, (f r).slot = none ∨ (f r).slot = r.slot) : slotOf k s = some w := by
  rw [slotOf_eq, e, List.getElem?_map, Option.bind_map, Option.bind_eq_some_iff] at placed
  obtain ⟨r, hr, word⟩ := placed
  rw [slotOf_eq, hr]
  rcases clears r with empty | same
  · simp [empty] at word
  · simpa [same] using word

/-- Only HOST(h) puts a new word into h's slot, and only while h may place one (R34): every other effect leaves the slots
as they are or empties them. -/
theorem Effect.new_word {a : Action} {s t : State} (e : Effect a s t) {h : Nat} {w : Word}
    (placed : slotOf h t = some w) (new : slotOf h s ≠ some w) :
    slotOf h s = none ∧ waitingOf h s = false ∧ (a = .place h w ∨ a = .host h) := by
  cases e with
  | idle => exact (new placed).elim
  | place k v _ f move word =>
    rcases slotOf_hostMove move h with same | ⟨rfl, empty, quiet⟩
    · exact (new (same ▸ placed)).elim
    · by_cases hv : v = w
      · exact ⟨empty, quiet, .inl (by rw [hv])⟩
      · rw [slotOf_modify_self rfl, Option.bind_eq_some_iff] at placed
        obtain ⟨r, hr, hw⟩ := placed
        have same : (f r).slot = r.slot := (word r hr).resolve_right fun own => hv (Option.some.inj (own.symm.trans hw))
        exact (new (by rw [slotOf_eq, hr, ← hw, same]; rfl)).elim
  | start _ _ _ f move word =>
    exact (new (slotOf_modify_cleared placed rfl fun r hr => .inr (word r hr))).elim
  | host k _ f move =>
    rcases slotOf_hostMove move h with same | ⟨rfl, empty, quiet⟩
    · exact (new (same ▸ placed)).elim
    · exact ⟨empty, quiet, .inr rfl⟩
  | bus =>
    rw [acceptBus_eq] at placed
    exact (new (slotOf_modify_cleared placed rfl fun _ _ => .inl rfl)).elim
  | answer => exact (new (slotOf_modify_cleared placed rfl fun _ _ => .inl rfl)).elim
  | illegal => exact (new (slotOf_modify_cleared placed rfl fun _ _ => .inl rfl)).elim
  | complete => exact (new (slotOf_modify_cleared placed rfl fun _ _ => .inr rfl)).elim
  | lineTx => exact (new placed).elim
  | rxTaken => exact (new placed).elim
  | rxDropped => exact (new placed).elim
  | expire => exact (new placed).elim
  | tick => exact (new (slotOf_map_cleared placed rfl fun _ => .inr rfl)).elim
  | lineReady => exact (new placed).elim
  | blockReset => exact (new (slotOf_map_cleared placed rfl fun _ => .inl rfl)).elim

/-- Settles O53: the effects that bring a new word are those of HOST(h). -/
theorem wordPlacedOnlyWhenFree : Obligations.WordPlacedOnlyWhenFree := fun _ _ _ _ hs placed new =>
  (step_effect hs).new_word placed new

/-! ## The invariant -/

/-- Every response held for a host has a code that R240 names: the invariant's clause `codes`, of a list of requesters. -/
def KnownCodes (rs : List Requester) : Prop := ∀ r ∈ rs, ∀ p, r.inbox = some p → p.err.toNat ≤ 8

theorem KnownCodes.modify {rs : List Requester} (known : KnownCodes rs) {h : Nat} {f : Requester → Requester}
    (code : ∀ r, rs[h]? = some r → ∀ p, (f r).inbox = some p → r.inbox = some p ∨ p.err.toNat ≤ 8) :
    KnownCodes (rs.modify h f) := by
  intro r hr p hp
  rcases mem_modify hr with old | ⟨r0, h0, rfl⟩
  · exact known r old p hp
  · rcases code r0 h0 p hp with same | small
    · exact known r0 (List.mem_of_getElem? h0) p same
    · exact small

/-- Answering a requester with a produced code. -/
theorem KnownCodes.answered {rs : List Requester} (known : KnownCodes rs) {h : Nat} {f : Requester → Requester}
    {e : ErrCode} {d : Byte} (inbox : ∀ r, (f r).inbox = some ⟨e.code, d⟩) : KnownCodes (rs.modify h f) := by
  refine known.modify fun r _ p hp => .inr ?_
  rw [inbox r] at hp
  cases hp
  exact e.code_le

theorem KnownCodes.map {rs : List Requester} (known : KnownCodes rs) {f : Requester → Requester}
    (inbox : ∀ r, (f r).inbox = r.inbox) : KnownCodes (rs.map f) := by
  intro r hr p hp
  obtain ⟨r0, h0, rfl⟩ := List.mem_map.1 hr
  exact known r0 h0 p (inbox r0 ▸ hp)

/-- No requester of an idle block waits (R34). -/
theorem Inv.nobody_waits {s : State} (inv : Inv s) (hp : s.phase = .idle) (h : Nat) : waitingOf h s = false := by
  by_contra waits
  obtain ⟨xfer, -⟩ := (inv.waits h).1 (by simpa using waits)
  simp [hp] at xfer

theorem Inv.xfer_of_open {s : State} (inv : Inv s) (frame : frameOpen s = true) : s.phase = .xfer := by
  obtain ⟨armed, -, -⟩ := (frameOpen_iff s).1 frame
  cases hp : s.phase with
  | idle => simp [(inv.idle_quiet hp).2.1] at armed
  | xfer => rfl

/-- The invariant of an idle block: what it asks beyond R35 and that nobody waits. -/
theorem Inv.of_idle {s : State} (hp : s.phase = .idle)
    (quiet : s.baudMode = .normal ∧ s.frArmed = false ∧ s.frCnt = 0 ∧ s.frExpired = false ∧ s.txq = [])
    (nobody : ∀ h, waitingOf h s = false) (owner : ∀ o, s.lockOwner = some o → o < nReq s)
    (unready : s.ready = false → s.crcAcc = 0x00 ∧ s.lockOwner = none) (codes : KnownCodes s.reqs)
    (bound : s.params.timeoutModel = .timed → s.frTimer ≤ s.params.tRead) (some_requester : 0 < nReq s) : Inv s where
  idle_quiet _ := quiet
  xfer_armed := by simp [hp]
  xfer_latch := by simp [hp]
  xfer_queue := by simp [hp]
  count_le := by rw [quiet.2.2.1]; exact Nat.zero_le _
  expired_short := by simp [quiet.2.2.2.1]
  rate := by simp [quiet.1, hp]
  waits := by simp [nobody, hp]
  one_outstanding := by simp [nobody]
  owner_exists := owner
  owner_runs := by simp [hp]
  unready h := ⟨hp, unready h⟩
  codes := codes
  bound := bound
  some_requester := some_requester

/-- Settles O43: the reset state is an idle block with nothing placed and nothing delivered. -/
theorem resetMeetsInvariant : Obligations.ResetMeetsInvariant :=
  .of_idle rfl ⟨rfl, rfl, rfl, rfl, rfl⟩ waitingOf_reset nofun (fun _ => ⟨rfl, rfl⟩)
    (fun r hr p hp => by
      obtain ⟨h, e⟩ := List.mem_iff_getElem?.1 hr
      rw [getElem?_reset_reqs e] at hp
      cases hp)
    nofun (Nat.succ_pos _)

/-- A change of the requesters alone keeps the invariant if the waits stay, a waiting requester's slot stays empty and no
reserved code appears. -/
theorem Inv.with_reqs {s : State} (inv : Inv s) {rs : List Requester} (len : rs.length = nReq s)
    (waits : ∀ h, waitingOf h { s with reqs := rs } = waitingOf h s)
    (slots : ∀ h, waitingOf h s = true → slotOf h { s with reqs := rs } = slotOf h s) (codes : KnownCodes rs) :
    Inv { s with reqs := rs } :=
  { inv with
    waits := fun h => by rw [waits]; exact inv.waits h
    one_outstanding := fun h hw => by
      rw [waits] at hw
      rw [slots h hw]
      exact inv.one_outstanding h hw
    owner_exists := fun o ho => (inv.owner_exists o ho).trans_eq len.symm
    codes := codes
    some_requester := inv.some_requester.trans_eq len.symm }

/-- A host's move keeps the invariant. -/
theorem Inv.hostMove {s : State} (inv : Inv s) {h : Nat} {f : Requester → Requester}
    (move : ∀ r, s.reqs[h]? = some r → HostMove r (f r)) : Inv (updReq h f s) := by
  refine inv.with_reqs (List.length_modify ..) (waitingOf_hostMove move) (fun k hw => ?_)
    (KnownCodes.modify inv.codes fun r hr p hp => .inl ?_)
  · rcases slotOf_hostMove move k with same | ⟨-, -, quiet⟩
    · exact same
    · simp [hw] at quiet
  · rcases (move r hr).inbox with same | empty
    · rwa [same] at hp
    · simp [empty] at hp

/-- A record change that ends h's wait, where no other requester waits, leaves nobody waiting. -/
theorem nobody_waits_of_modify {s t : State} {h : Nat} {f : Requester → Requester} (e : t.reqs = s.reqs.modify h f)
    (ends : ∀ r, (f r).waiting = false) (others : ∀ k, h ≠ k → waitingOf k s = false) (k : Nat) :
    waitingOf k t = false := by
  by_cases hk : h = k
  · subst hk
    rw [waitingOf_modify_self e]
    cases s.reqs[h]? <;> simp [ends]
  · rw [waitingOf_modify_ne e hk, others k hk]

theorem nReq_modify {s t : State} {h : Nat} {f : Requester → Requester} (e : t.reqs = s.reqs.modify h f) :
    nReq t = nReq s := by
  simp [nReq, e]

/-- The answer to a word that completes in its acceptance (R76, R103 to R105, R181, R182): the block stays idle, and the
lock's owner, if any, is a requester. -/
theorem Inv.answered {s : State} (inv : Inv s) {h : Nat} (gate : canAccept h s = true) (e : ErrCode) (d acc : Byte)
    {owner : Option Nat} (exists_owner : ∀ o, owner = some o → o < nReq s) (es : List Event) :
    Inv { s with
      reqId := h
      crcAcc := acc
      lockOwner := owner
      reqs := answeredReqs s h e.code d
      hist := es } := by
  obtain ⟨ready, idle, -, -⟩ := (canAccept_iff h s).1 gate
  exact .of_idle idle (inv.idle_quiet idle)
    (nobody_waits_of_modify rfl (fun _ => rfl) fun k _ => inv.nobody_waits idle k)
    (fun o ho => (exists_owner o ho).trans_eq (nReq_modify rfl).symm) (by simp [ready])
    (KnownCodes.answered inv.codes fun _ => rfl) inv.bound (inv.some_requester.trans_eq (nReq_modify rfl).symm)

/-- After a completion (R131) the rate is normal, since only a RESET in execution had changed it. -/
theorem Inv.rate_restored {s : State} (inv : Inv s) :
    (if s.cur.op = 0x01 then BaudMode.normal else s.baudMode) = .normal := by
  split
  · rfl
  · rename_i other
    cases rate : s.baudMode with
    | normal => rfl
    | reset => exact absurd (inv.rate.1 rate).2 other

/-- Completion (R131): the one requester that waited is answered. -/
theorem Inv.complete {s : State} (inv : Inv s) (enabled : canComplete s = true) (e : ErrCode) (d : Byte) :
    Inv (completed s (if s.cur.op = 0x01 then .normal else s.baudMode) e.code d) := by
  obtain ⟨xfer, sent, -⟩ := (canComplete_iff s).1 enabled
  refine .of_idle rfl ⟨inv.rate_restored, rfl, rfl, rfl, sent⟩
    (nobody_waits_of_modify rfl (fun _ => rfl) fun k other => ?_)
    (fun o ho => (inv.owner_exists o ho).trans_eq (nReq_modify rfl).symm) (fun unready => ?_)
    (KnownCodes.answered inv.codes fun _ => rfl) (fun _ => Nat.zero_le _)
    (inv.some_requester.trans_eq (nReq_modify rfl).symm)
  · by_contra waits
    exact other ((inv.waits k).1 (by simpa using waits)).2
  · obtain ⟨idle, -, -⟩ := inv.unready unready
    simp [xfer] at idle

/-- Block reset (R270): every requester's wait ends. -/
theorem Inv.blockReset {s : State} (inv : Inv s) : Inv (blockReset s) := by
  have len : nReq (Machine.blockReset s) = nReq s := List.length_map ..
  refine .of_idle rfl ⟨rfl, rfl, rfl, rfl, rfl⟩ (fun h => ?_) nofun (fun _ => ⟨rfl, rfl⟩)
    (KnownCodes.map inv.codes fun _ => rfl) (fun _ => Nat.zero_le _) (inv.some_requester.trans_eq len.symm)
  rw [waitingOf_eq, Machine.blockReset, record_reqs, List.getElem?_map]
  cases s.reqs[h]? <;> rfl

/-! ## The acceptance of a bus command (R137) -/

theorem opField_mkWord (op arg : Byte) : opField (mkWord op arg) = op :=
  BitVec.extractLsb'_append_eq_left

theorem mkWord_fields (w : Word) : mkWord (opField w) (argField w) = w :=
  (BitVec.extractLsb'_append_extractLsb'_eq_extractLsb' rfl).trans BitVec.extractLsb'_eq_self

theorem opField_encode (i : Instr) : opField (encode i) = i.mnemonic.opcode := by
  cases i <;> exact opField_mkWord _ _

/-- The latch of a bus command holds an op that has a finish (R131). -/
theorem Inv.latched_op {s : State} (inv : Inv s) (xfer : s.phase = .xfer) :
    s.cur.op ∈ [(0x01 : Byte), 0x02, 0x03, 0x04, 0x05] := by
  obtain ⟨i, frame, word⟩ := inv.xfer_latch xfer
  have op : s.cur.op = i.mnemonic.opcode := by rw [← opField_encode, word, opField_mkWord]
  rw [op]
  revert frame
  cases i <;> simp [busFrame, Instr.mnemonic, Mnemonic.opcode]

theorem lt_nReq_of_slotOf {h : Nat} {s : State} {w : Word} (slot : slotOf h s = some w) : h < nReq s := by
  obtain ⟨r, hr, -⟩ := slotOf_some slot
  exact (List.getElem?_eq_some_iff.1 hr).1

/-- Once h's word is taken from an idle block, h waits and nobody else does. -/
theorem Inv.waits_of_accepted {s t : State} (inv : Inv s) (idle : s.phase = .idle) {h : Nat} {w : Word}
    (slot : slotOf h s = some w) (e : t.reqs = s.reqs.modify h fun r => { r with slot := none, waiting := true })
    (k : Nat) : waitingOf k t = true ↔ h = k := by
  by_cases hk : h = k
  · subst hk
    obtain ⟨r, hr, -⟩ := slotOf_some slot
    simp [waitingOf_modify_self e, hr]
  · simp [waitingOf_modify_ne e hk, inv.nobody_waits idle, hk]

/-- The acceptance of a bus command: the frame is armed for it, and the idle block's empty queue takes its patterns. -/
theorem Inv.bus_accepted {s : State} (inv : Inv s) {h : Nat} {w : Word} {i : Instr} {n : FrameLen}
    (gate : canAccept h s = true) (slot : slotOf h s = some w) (frame : busFrame i = some n) :
    Inv (acceptBus h (encode i) n (busPatterns i) (decide (i = .reset)) { s with reqId := h }) := by
  obtain ⟨ready, idle, -, owner⟩ := (canAccept_iff h s).1 gate
  obtain ⟨normal, -, -, -, sent⟩ := inv.idle_quiet idle
  rw [acceptBus_eq]
  exact {
    idle_quiet := nofun
    xfer_armed := fun _ => rfl
    xfer_latch := fun _ => ⟨i, frame, (mkWord_fields _).symm⟩
    xfer_queue := fun _ => by simp [framePatterns_encode frame, sent]
    count_le := Nat.zero_le _
    expired_short := nofun
    rate := by simpa [normal] using (opField_encode_reset_iff i).symm
    waits := fun k => (inv.waits_of_accepted idle slot rfl k).trans (by simp)
    one_outstanding := fun k hk => by
      obtain rfl := (inv.waits_of_accepted idle slot rfl k).1 hk
      rw [slotOf_modify_self (s := s) rfl]
      cases s.reqs[h]? <;> rfl
    owner_exists := fun o ho => (inv.owner_exists o ho).trans_eq (nReq_modify rfl).symm
    owner_runs := fun _ o ho => by
      rcases owner with free | own
      · simp [free] at ho
      · exact Option.some.inj (ho.symm.trans own)
    unready := by simp [ready]
    codes := KnownCodes.modify inv.codes fun _ _ _ hp => .inl hp
    bound := fun _ => Nat.zero_le _
    some_requester := inv.some_requester.trans_eq (nReq_modify rfl).symm }

/-! ## The line, the timer and the clock -/

/-- LINE_TX sends from XFER only, and leaves the rest of the queue (R27, R128). -/
theorem Inv.lineTx {s : State} (inv : Inv s) {b : Byte} {bs : List Byte} (queue : s.txq = b :: bs) (es : List Event) :
    Inv { s with txq := bs, hist := es } :=
  { inv with
    idle_quiet := fun idle => by
      obtain ⟨-, -, -, -, sent⟩ := inv.idle_quiet idle
      simp [queue] at sent
    xfer_queue := fun xfer => (List.suffix_cons b bs).trans (queue ▸ inv.xfer_queue xfer) }

/-- A byte taken by an open frame fills it at most (R129). -/
theorem Inv.rxTaken {s : State} (inv : Inv s) (frame : frameOpen s = true) (buf : Vector Byte 8) (es : List Event) :
    Inv { s with frBuf := buf, frCnt := s.frCnt + 1, hist := es } := by
  obtain ⟨-, waiting, short⟩ := (frameOpen_iff s).1 frame
  exact { inv with
    idle_quiet := by simp [inv.xfer_of_open frame]
    count_le := short
    expired_short := by simp [waiting] }

/-- Only a frame that is not full expires (R132). -/
theorem Inv.expire {s : State} (inv : Inv s) (frame : frameOpen s = true) (es : List Event) :
    Inv { s with frExpired := true, hist := es } := by
  obtain ⟨-, -, short⟩ := (frameOpen_iff s).1 frame
  exact { inv with
    idle_quiet := by simp [inv.xfer_of_open frame]
    expired_short := fun _ => short }

/-- Under TIMED the clock does not pass the bound of an open frame (R133), and a host's DELAY is the host's own. -/
theorem Inv.tick {s : State} (inv : Inv s)
    (bound : frameOpen s = true → s.params.timeoutModel = .timed → s.frTimer < s.params.tRead) :
    Inv { s with
      frTimer := (if frameOpen s then s.frTimer + 1 else s.frTimer)
      reqs := s.reqs.map fun r => { r with host := tickHost r.host } } := by
  have timed : Inv { s with frTimer := (if frameOpen s then s.frTimer + 1 else s.frTimer) } :=
    { inv with
      bound := fun model => by
        show (if frameOpen s then s.frTimer + 1 else s.frTimer) ≤ s.params.tRead
        split
        · rename_i frame
          exact bound frame model
        · exact inv.bound model }
  refine timed.with_reqs (List.length_map ..) (fun h => ?_) (fun h _ => ?_) (KnownCodes.map inv.codes fun _ => rfl)
  · rw [waitingOf_eq, waitingOf_eq, List.getElem?_map, Option.map_map]; rfl
  · rw [slotOf_eq, slotOf_eq, List.getElem?_map, Option.bind_map]; rfl

/-! ## Every step keeps the invariant -/

theorem Inv.advance {s : State} (inv : Inv s) : Inv (advance s) := { inv with }

theorem Effect.keeps_inv {a : Action} {s t : State} (e : Effect a s t) (inv : Inv s) : Inv t := by
  cases e with
  | idle => exact inv
  | place _ _ _ _ move => exact inv.hostMove move
  | start _ _ _ _ move => exact inv.hostMove move
  | host _ _ _ move => exact inv.hostMove move
  | bus h w i n _ gate slot _ frame => exact inv.bus_accepted gate slot frame
  | answer h w i _ e d acc owner gate slot _ _ _ lock =>
    refine inv.answered gate e d acc (fun o ho => ?_) _
    by_cases same : owner = s.lockOwner
    · exact inv.owner_exists o (same ▸ ho)
    · rcases lock same with ⟨-, taken⟩ | ⟨-, freed, -⟩
      · obtain rfl : h = o := Option.some.inj (taken.symm.trans ho)
        exact lt_nReq_of_slotOf slot
      · simp [freed] at ho
  | illegal h w _ gate => exact inv.answered gate .illegal 0x00 s.crcAcc inv.owner_exists _
  | complete _ e d enabled => exact inv.complete enabled e d
  | lineTx _ b bs queue => exact inv.lineTx queue _
  | rxTaken _ _ frame => exact inv.rxTaken frame _ _
  | rxDropped => exact { inv with }
  | expire _ frame => exact inv.expire frame _
  | tick _ bound => exact inv.tick bound
  | lineReady => exact { inv with unready := nofun }
  | blockReset => exact inv.blockReset

theorem Inv.of_step {s t : State} (inv : Inv s) (hs : step s = .next t) : Inv t := (step_effect hs).keeps_inv inv.advance

/-- No agent step stops the machine: a host finds no reserved code, and a completion finds a bus command latched. -/
theorem Inv.runAction_next {s : State} (inv : Inv s) (a : Action) : ∃ t, runAction a s = .next t := by
  cases a with
  | host h =>
    rcases hostStep_cases (rfl : hostStep h s = _) with ⟨f, moved, -⟩ | ⟨-, r, p, hr, hp, reserved⟩
    · exact ⟨_, moved⟩
    · obtain ⟨e, known⟩ := ErrCode.ofCode_of_le (inv.codes r (List.mem_of_getElem? hr) p hp)
      simp [known] at reserved
  | accept h =>
    rcases acceptStep_cases (rfl : acceptStep h s = _) with ⟨-, held⟩ | ⟨w, i, -, -, -, runs⟩ | ⟨w, err, -, -, -, bad⟩
    · exact ⟨_, held⟩
    · obtain ⟨t, answers, -⟩ := acceptanceWrites i { s with reqId := h }
      exact ⟨t, runs.trans answers⟩
    · exact ⟨_, bad⟩
  | complete =>
    rcases completeStep_cases (rfl : completeStep s = _) with ⟨-, waits⟩ | ⟨-, e, d, done⟩ | ⟨enabled, -, corrupt⟩
    · exact ⟨_, waits⟩
    · exact ⟨_, done⟩
    · exact absurd (inv.latched_op ((canComplete_iff s).1 enabled).1) corrupt
  | place => exact ⟨_, rfl⟩
  | start => exact ⟨_, rfl⟩
  | lineTx => exact ⟨_, rfl⟩
  | lineRx => exact ⟨_, rfl⟩
  | timer => exact ⟨_, rfl⟩
  | tick => exact ⟨_, rfl⟩
  | lineReady => exact ⟨_, rfl⟩
  | blockReset => exact ⟨_, rfl⟩

/-- Settles O44: the step answers, and each of the effects it can have keeps the invariant. -/
theorem stepKeepsInvariant : Obligations.StepKeepsInvariant := by
  intro s inv
  obtain ⟨t, answers⟩ := inv.advance.runAction_next (nextAction s)
  exact ⟨t, answers, inv.of_step answers⟩

/-- From IDLE only the acceptance of a bus command leads to XFER (R35). -/
theorem Effect.leaves_idle {a : Action} {s t : State} (e : Effect a s t) (idle : s.phase = .idle)
    (xfer : t.phase = .xfer) :
    ∃ h w i n, a = .accept h ∧ slotOf h s = some w ∧ decode w = .ok i ∧ busFrame i = some n := by
  have stays : s.phase ≠ .xfer := by simp [idle]
  cases e with
  | idle => exact absurd xfer stays
  | place => exact absurd xfer stays
  | start => exact absurd xfer stays
  | host => exact absurd xfer stays
  | bus h w i n _ _ slot legal frame => exact ⟨h, w, i, n, rfl, slot, legal, frame⟩
  | answer => exact absurd xfer stays
  | illegal => exact absurd xfer stays
  | complete => cases xfer
  | lineTx => exact absurd xfer stays
  | rxTaken => exact absurd xfer stays
  | rxDropped => exact absurd xfer stays
  | expire => exact absurd xfer stays
  | tick => exact absurd xfer stays
  | lineReady => exact absurd xfer stays
  | blockReset => cases xfer

/-- Settles O45: the first half is the invariant's clause R35 after the step. -/
theorem idleBlockIsQuiet : Obligations.IdleBlockIsQuiet :=
  ⟨fun _ _ inv hs idle => (inv.of_step hs).idle_quiet idle, fun _ _ idle hs xfer => (step_effect hs).leaves_idle idle xfer⟩

end Sys2Proof.Machine
end

section
/-! PROOF. The statements of 30_encoding.md: the rows of the opcode map in terms of the op and arg fields (R72, R74), the
decoder as the inverse of the encoder (R77), what it rejects (R74, R75), and CTRL's turn to a legal and to an illegal
word (R76). -/

namespace Sys2Proof

/-! ## The two fields of a word (R70) -/

theorem argField_mkWord (op arg : Byte) : argField (mkWord op arg) = arg :=
  BitVec.extractLsb'_append_eq_right

theorem word_eq_iff (w v : Word) : w = v ↔ opField w = opField v ∧ argField w = argField v := by
  constructor
  · rintro rfl
    exact ⟨rfl, rfl⟩
  · rintro ⟨op, arg⟩
    rw [← Machine.mkWord_fields w, op, arg, Machine.mkWord_fields]

theorem opField_and (w v : Word) : opField (w &&& v) = opField w &&& opField v := BitVec.extractLsb'_and

theorem argField_and (w v : Word) : argField (w &&& v) = argField w &&& argField v := BitVec.extractLsb'_and

/-! ## The rows of the opcode map (R72) -/

/-- The arg bits that an operand kind reserves (R73, R74). -/
def OperandKind.reservedBits : OperandKind → Byte
  | .none => 0xFF
  | .bit1 => 0xFE
  | .imm8 => 0x00

theorem row_fields : ∀ r ∈ opRows,
    opField r.mask = 0xFF ∧ argField r.mask = r.mnemonic.operandKind.reservedBits ∧
      opField r.pattern = r.mnemonic.opcode ∧ argField r.pattern = 0x00 := by decide

theorem exists_row (m : Mnemonic) : ∃ r ∈ opRows, r.mnemonic = m := by cases m <;> decide

theorem row_eq_of_opcode_eq : ∀ r ∈ opRows, ∀ r' ∈ opRows, r.mnemonic.opcode = r'.mnemonic.opcode → r = r' := by decide

theorem Mnemonic.opcode_injective {m m' : Mnemonic} (same : m.opcode = m'.opcode) : m = m' := by
  obtain ⟨r, hr, rfl⟩ := exists_row m
  obtain ⟨r', hr', rfl⟩ := exists_row m'
  rw [row_eq_of_opcode_eq r hr r' hr' same]

/-- A row selects the words of its op whose reserved arg bits are zero (R72, R74). -/
theorem selects_iff {r : OpRow} (hr : r ∈ opRows) (w : Word) :
    r.selects w = true ↔
      opField w = r.mnemonic.opcode ∧ argField w &&& r.mnemonic.operandKind.reservedBits = 0x00 := by
  obtain ⟨opMask, argMask, opPattern, argPattern⟩ := row_fields r hr
  have whole : opField w &&& 0xFF = opField w := BitVec.and_allOnes
  rw [OpRow.selects, beq_iff_eq, word_eq_iff, opField_and, argField_and, opMask, argMask, opPattern, argPattern, whole]

/-- No word is selected by two rows (R72). -/
theorem row_unique {r r' : OpRow} (hr : r ∈ opRows) (hr' : r' ∈ opRows) {w : Word} (sel : r.selects w = true)
    (sel' : r'.selects w = true) : r = r' :=
  row_eq_of_opcode_eq r hr r' hr' (((selects_iff hr w).1 sel).1.symm.trans ((selects_iff hr' w).1 sel').1)

/-- The decoder's search finds the one row that selects the word. -/
theorem find?_opRows_iff {w : Word} {r : OpRow} :
    opRows.find? (fun row => row.selects w) = some r ↔ r ∈ opRows ∧ r.selects w = true := by
  constructor
  · intro found
    have sel := List.find?_some found
    exact ⟨List.mem_of_find?_eq_some found, sel⟩
  · rintro ⟨hr, sel⟩
    cases found : opRows.find? (fun row => row.selects w) with
    | none => exact absurd sel (List.find?_eq_none.1 found r hr)
    | some r' =>
      have sel' := List.find?_some found
      rw [row_unique (List.mem_of_find?_eq_some found) hr sel' sel]

/-! ## The decoder and the encoder (R77, R78) -/

theorem mnemonic_instrOf (m : Mnemonic) (w : Word) : (instrOf m w).mnemonic = m := by cases m <;> rfl

theorem instrOf_encode (i : Instr) : instrOf i.mnemonic (encode i) = i := by
  cases i with
  | wrbit b => cases b <;> rfl
  | wrbyte v => exact congrArg Instr.wrbyte (argField_mkWord 0x04 v)
  | crcfeed d => exact congrArg Instr.crcfeed (argField_mkWord 0x09 d)
  | _ => rfl

/-- Encoding what a row reads from a word clears the arg bits that the row reserves, and only those. -/
theorem argField_encode_instrOf (m : Mnemonic) (w : Word) :
    argField (encode (instrOf m w)) = argField w &&& ~~~m.operandKind.reservedBits := by
  have zero : (0x00 : Byte) = argField w &&& ~~~0xFF := BitVec.and_zero.symm
  have all : argField w = argField w &&& ~~~0x00 := BitVec.and_allOnes.symm
  have low : ∀ arg : Byte, zext8 (arg.getLsbD 0) = arg &&& ~~~0xFE := by decide
  have bit : (argField w).getLsbD 0 = w.getLsbD 0 := by simp [argField]
  cases m with
  | wrbit => exact (argField_mkWord _ _).trans (bit ▸ low (argField w))
  | wrbyte => exact (argField_mkWord _ _).trans all
  | crcfeed => exact (argField_mkWord _ _).trans all
  | _ => exact (argField_mkWord _ _).trans zero

theorem and_not_eq_self_iff (a b : Byte) : a &&& ~~~b = a ↔ a &&& b = 0x00 := by
  constructor
  · intro h
    rw [← h, BitVec.and_assoc, BitVec.not_and_self]
    exact BitVec.and_zero
  · intro h
    calc a &&& ~~~b = a &&& ~~~b ||| a &&& b := by rw [h]; exact BitVec.or_zero.symm
      _ = a &&& (~~~b ||| b) := BitVec.and_or_distrib_left.symm
      _ = a := by rw [BitVec.not_or_self, BitVec.and_allOnes]

/-- A row selects a word exactly when encoding what it reads from the word gives the word back. -/
theorem encode_instrOf_eq_iff {r : OpRow} (hr : r ∈ opRows) (w : Word) :
    encode (instrOf r.mnemonic w) = w ↔ r.selects w = true := by
  rw [selects_iff hr, word_eq_iff, Machine.opField_encode, mnemonic_instrOf, argField_encode_instrOf,
    and_not_eq_self_iff, eq_comm (a := opField w)]

/-- The decoder answers with the command of the one row that selects the word (R77). -/
theorem decode_eq_ok_iff_row {w : Word} {i : Instr} :
    decode w = .ok i ↔ ∃ r ∈ opRows, r.selects w = true ∧ instrOf r.mnemonic w = i := by
  unfold decode
  constructor
  · intro h
    split at h
    · rename_i r found
      obtain ⟨hr, sel⟩ := find?_opRows_iff.1 found
      exact ⟨r, hr, sel, Except.ok.inj h⟩
    · split at h <;> cases h
  · rintro ⟨r, hr, sel, rfl⟩
    rw [find?_opRows_iff.2 ⟨hr, sel⟩]

/-- The decoder inverts the encoder: a word is legal exactly when it is the word of a command (R77). -/
theorem decode_eq_ok_iff {w : Word} {i : Instr} : decode w = .ok i ↔ encode i = w := by
  rw [decode_eq_ok_iff_row]
  constructor
  · rintro ⟨r, hr, sel, rfl⟩
    exact (encode_instrOf_eq_iff hr w).2 sel
  · rintro rfl
    obtain ⟨r, hr, row⟩ := exists_row i.mnemonic
    have read : instrOf r.mnemonic (encode i) = i := by rw [row, instrOf_encode]
    exact ⟨r, hr, (encode_instrOf_eq_iff hr _).1 (by rw [read]), read⟩

/-- The operand of a legal word is the field that its mnemonic names (R73). -/
theorem instrOf_of_decode {w : Word} {i : Instr} (legal : decode w = .ok i) : instrOf i.mnemonic w = i := by
  rw [← decode_eq_ok_iff.1 legal, instrOf_encode]

/-- Settles O1: the decoder inverts the encoder. -/
theorem decodeOfEncode : Obligations.DecodeOfEncode := fun _ _ => decode_eq_ok_iff.2 rfl

/-- Settles O2: the same equivalence, read from the word. -/
theorem encodeOfDecode : Obligations.EncodeOfDecode := fun _ _ legal => decode_eq_ok_iff.1 legal

/-- Settles O5: each is the word of the command it is listed for. -/
theorem specWordsDecode : Obligations.SpecWordsDecode := by
  simp only [Obligations.SpecWordsDecode, decode_eq_ok_iff]
  decide

/-- R72 for one row: a word decodes to the row's command exactly when the row selects it. -/
theorem decodes_to_row_iff {r : OpRow} (hr : r ∈ opRows) (w : Word) :
    (∃ i, decode w = .ok i ∧ i.mnemonic = r.mnemonic) ↔ r.selects w = true := by
  constructor
  · rintro ⟨i, legal, row⟩
    refine (encode_instrOf_eq_iff hr w).1 ?_
    rw [← row, instrOf_of_decode legal, decode_eq_ok_iff.1 legal]
  · intro sel
    exact ⟨_, decode_eq_ok_iff_row.2 ⟨r, hr, sel, rfl⟩, mnemonic_instrOf _ _⟩

theorem argField_eq_setWidth (w : Word) : argField w = w.setWidth 8 :=
  (BitVec.setWidth_eq_extractLsb' (by decide)).symm

/-- Settles O3: R72's table is the model's rows, and the operands are what `instrOf` reads. -/
theorem opcodeMapSelects : Obligations.OpcodeMapSelects := by
  refine ⟨?_, fun w r r' hr hr' sel sel' => row_unique hr hr' sel sel', ?_, ?_, ?_⟩
  · intro w m pattern mask row
    have table : (m, pattern, mask) ∈ opRows.map fun r => (r.mnemonic, r.pattern, r.mask) := row
    obtain ⟨r, hr, fields⟩ := List.mem_map.1 table
    cases fields
    rw [decodes_to_row_iff hr, OpRow.selects, beq_iff_eq]
  · intro w b legal
    exact (Instr.wrbit.inj (instrOf_of_decode legal)).symm
  · intro w v legal
    rw [← argField_eq_setWidth]
    exact (Instr.wrbyte.inj (instrOf_of_decode legal)).symm
  · intro w d legal
    rw [← argField_eq_setWidth]
    exact (Instr.crcfeed.inj (instrOf_of_decode legal)).symm

/-! ## What the decoder rejects (R74, R75) -/

theorem assignedOp_opcode (m : Mnemonic) : assignedOp m.opcode = true := by
  obtain ⟨r, hr, rfl⟩ := exists_row m
  exact List.any_eq_true.2 ⟨r, hr, beq_self_eq_true _⟩

/-- A word that no row selects is rejected by what its op field says. -/
theorem decode_of_unselected {w : Word} (unselected : ∀ r ∈ opRows, r.selects w ≠ true) :
    decode w =
      if assignedOp (opField w) then .error (.reservedArgBits (opField w) (argField w))
      else .error (.unassignedOpcode (opField w)) := by
  rw [decode, List.find?_eq_none.2 unselected]

/-- A word is rejected for its op exactly when no row has that op (R75). -/
theorem decode_eq_unassigned_iff (w : Word) :
    decode w = .error (.unassignedOpcode (opField w)) ↔ assignedOp (opField w) = false := by
  constructor
  · intro rejected
    unfold decode at rejected
    split at rejected
    · cases rejected
    · split at rejected
      · cases rejected
      · rename_i unassigned
        simpa using unassigned
  · intro unassigned
    rw [decode_of_unselected, unassigned]
    · rfl
    · intro r hr sel
      rw [((selects_iff hr w).1 sel).1, assignedOp_opcode] at unassigned
      cases unassigned

/-- A word of an assigned op with a reserved arg bit set is rejected for that (R74). -/
theorem decode_of_reserved {w : Word} {m : Mnemonic} (op : opField w = m.opcode)
    (set : argField w &&& m.operandKind.reservedBits ≠ 0x00) :
    decode w = .error (.reservedArgBits (opField w) (argField w)) := by
  rw [decode_of_unselected, op, assignedOp_opcode]
  · rfl
  · intro r hr sel
    obtain ⟨row, clear⟩ := (selects_iff hr w).1 sel
    obtain rfl : m = r.mnemonic := Mnemonic.opcode_injective (op.symm.trans row)
    exact set clear

theorem decode_mkWord_of_reserved {m : Mnemonic} {arg : Byte} (set : arg &&& m.operandKind.reservedBits ≠ 0x00) :
    decode (mkWord m.opcode arg) = .error (.reservedArgBits m.opcode arg) := by
  have rejected := decode_of_reserved (w := mkWord m.opcode arg) (m := m) (Machine.opField_mkWord _ _)
    (by rwa [argField_mkWord])
  rwa [Machine.opField_mkWord, argField_mkWord] at rejected

/-- Settles O4: the ops that R75 lists are those of no row, and a command without operand reserves every arg bit, WRBIT
all but bit 0. -/
theorem illegalWordsRejectedByName : Obligations.IllegalWordsRejectedByName := by
  refine ⟨?_, ?_, ?_⟩
  · intro op arg
    have listed : ∀ op : Byte, assignedOp op = false ↔
        (op = 0x00 ∨ op = 0x06 ∨ op = 0x07 ∨ op = 0x0B ∨ 0x0E ≤ op.toNat) := by decide
    rw [← listed, ← Machine.opField_mkWord op arg]
    simpa only [Machine.opField_mkWord] using decode_eq_unassigned_iff (mkWord op arg)
  · intro op arg hop set
    have bare : ∀ op ∈ [(0x01 : Byte), 0x03, 0x05, 0x08, 0x0A, 0x0C, 0x0D],
        ∃ r ∈ opRows, r.mnemonic.opcode = op ∧ r.mnemonic.operandKind = .none := by decide
    obtain ⟨r, -, rfl, kind⟩ := bare op hop
    refine decode_mkWord_of_reserved ?_
    rw [kind]
    exact fun clear => set (BitVec.and_allOnes.symm.trans clear)
  · intro arg high
    have low : ∀ arg : Byte, arg &&& 0xFE = 0x00 → arg.toNat / 2 = 0 := by decide
    exact decode_mkWord_of_reserved (m := .wrbit) fun clear => high (low arg clear)

end Sys2Proof

namespace Sys2Proof.Machine

/-! ## CTRL's turn to a word (R76, R180) -/

/-- The gate of a slot that holds a word, as R180 lists it. -/
theorem canAccept_of_placed {h : Nat} {s : State} {w : Word} (ready : s.ready = true) (idle : s.phase = .idle)
    (slot : slotOf h s = some w) (lock : s.lockOwner = none ∨ s.lockOwner = some h) : canAccept h s = true :=
  (canAccept_iff h s).2 ⟨ready, idle, ⟨w, slot⟩, lock⟩

theorem acceptStep_of_held {h : Nat} {s : State} (held : canAccept h s = false) : acceptStep h s = .next s := by
  simp [acceptStep, held]

/-- The acceptance of an illegal word that the gate admits is its answer, as one record update (R76). -/
theorem acceptStep_of_illegal {h : Nat} {s : State} {w : Word} (gate : canAccept h s = true)
    (slot : slotOf h s = some w) (bad : ∀ i, decode w ≠ .ok i) :
    acceptStep h s = .next { s with
      reqId := h
      reqs := answeredReqs s h 7 0x00
      hist := s.hist ++ [.cmd h w, .rsp h 7 0x00] } := by
  cases rejected : decode w with
  | ok i => exact absurd rejected (bad i)
  | error err =>
    have answers : acceptStep h s = .next (acceptIllegal h w { s with reqId := h }) := by
      simp [acceptStep, gate, slot, rejected]
    rw [answers, acceptIllegal_eq]
    rfl

/-- Another requester's lock holds h's words (R180). -/
theorem canAccept_of_foreign_lock {h o : Nat} {s : State} (lock : s.lockOwner = some o) (other : o ≠ h) :
    canAccept h s = false := by
  simp [canAccept, lockAdmits, lock, other]

/-- Settles O6: CTRL's turn is the scheduled step, and the gate's four conditions admit the word. -/
theorem stepRunsDecodedInstruction : Obligations.StepRunsDecodedInstruction := by
  intro s h rest w i sched ready idle slot lock legal
  rw [stepRunsScheduledAgent s _ rest sched]
  exact acceptStep_of_legal (canAccept_of_placed ready idle slot lock) slot legal

/-- Settles O10: the answer as one record update, and the closed gate. -/
theorem illegalWordAnswered : Obligations.IllegalWordAnswered := by
  constructor
  · intro s h rest w sched ready idle slot lock bad
    rw [stepRunsScheduledAgent s _ rest sched]
    exact acceptStep_of_illegal (canAccept_of_placed ready idle slot lock) slot bad
  · intro s h o rest w sched slot bad lock other
    rw [stepRunsScheduledAgent s _ rest sched]
    exact acceptStep_of_held (canAccept_of_foreign_lock lock other)

end Sys2Proof.Machine
end

section
/-! PROOF. The statements of 40_crc8.md: the rounds of `step8` and that they lose nothing (R100, R106), the whole next
state of CRCCLR, CRCFEED and CRCCHK (R103 to R105), what a run of them computes, and the laws of `crc8` (R106). -/

namespace Sys2Proof.Machine

/-! ## The byte update (R100) -/

/-- A round by the accumulator's parity. -/
theorem crcRound_eq : crcRound = fun a : Byte => if a.toNat % 2 = 1 then (a >>> 1) ^^^ 0x8C else a >>> 1 := by
  funext a
  have low : a.getLsbD 0 = decide (a.toNat % 2 = 1) := Nat.testBit_zero _
  simp only [crcRound, low, decide_eq_true_eq]

theorem crcRounds_eq_iterate (n : Nat) (a : Byte) : crcRounds n a = crcRound^[n] a := by
  induction n generalizing a with
  | zero => rfl
  | succ n ih => exact ih (crcRound a)

/-- Settles O11: `step8` iterates the round, and the bit shifted out is the parity. -/
theorem crcByteUpdate : Obligations.CrcByteUpdate := by
  intro acc b
  rw [step8, crcRounds_eq_iterate, crcRound_eq]

/-! ## The update loses nothing (R106) -/

/-- The bit that a round shifts out comes back in bit 7, which the shift clears and 0x8C has set. -/
theorem crcRound_bit7 (a : Byte) : (crcRound a).getLsbD 7 = a.getLsbD 0 := by
  rw [crcRound]
  cases a.getLsbD 0 <;> simp

theorem crcRound_injective : Function.Injective crcRound := by
  intro a b same
  have low : a.getLsbD 0 = b.getLsbD 0 := by rw [← crcRound_bit7, same, crcRound_bit7]
  have high : a >>> 1 = b >>> 1 := by
    simp only [crcRound, low] at same
    split at same
    · exact (BitVec.xor_left_inj _).1 same
    · exact same
  refine BitVec.eq_of_getLsbD_eq fun i _ => ?_
  cases i with
  | zero => exact low
  | succ i => simpa [Nat.add_comm] using congrArg (·.getLsbD i) high

theorem crcRounds_injective (n : Nat) : Function.Injective (crcRounds n) := by
  rw [funext (crcRounds_eq_iterate n)]
  exact crcRound_injective.iterate n

theorem step8_left_inj {a a' b : Byte} : step8 a b = step8 a' b ↔ a = a' :=
  (crcRounds_injective 8).eq_iff.trans (BitVec.xor_left_inj b)

theorem step8_right_inj {a b b' : Byte} : step8 a b = step8 a b' ↔ b = b' :=
  (crcRounds_injective 8).eq_iff.trans (BitVec.xor_right_inj a)

theorem step8_self (a : Byte) : step8 a a = 0x00 := by
  rw [step8, BitVec.xor_self]
  rfl

theorem step8_eq_zero_iff {a b : Byte} : step8 a b = 0x00 ↔ a = b := by
  rw [← step8_self b, step8_left_inj]

/-! ## The fold (R101) and its laws (R106) -/

theorem crcFold_eq_foldl (acc : Byte) (bs : List Byte) : crcFold acc bs = bs.foldl step8 acc := by
  induction bs generalizing acc with
  | nil => rfl
  | cons b bs ih => exact ih (step8 acc b)

theorem crcFold_append (acc : Byte) (bs cs : List Byte) : crcFold acc (bs ++ cs) = crcFold (crcFold acc bs) cs := by
  simp only [crcFold_eq_foldl, List.foldl_append]

theorem crcFold_injective (bs : List Byte) : Function.Injective fun acc => crcFold acc bs := by
  induction bs with
  | nil => exact fun _ _ same => same
  | cons b bs ih => exact fun _ _ same => step8_left_inj.1 (ih same)

/-- Settles O16: the appended byte is one `step8`, which is zero exactly when its operands agree. -/
theorem crcConventionsAgree : Obligations.CrcConventionsAgree := by
  have agree : ∀ (P : List Byte) (c : Byte), crc8 (P ++ [c]) = 0x00 ↔ crc8 P = c := fun P c => by
    rw [crc8, crcFold_append]
    exact step8_eq_zero_iff
  exact ⟨fun F => (agree F _).2 rfl, agree⟩

/-- Frames that differ in one byte differ in their `crc8`. -/
theorem crc8_mid_inj {P S : List Byte} {b b' : Byte} : crc8 (P ++ b :: S) = crc8 (P ++ b' :: S) ↔ b = b' := by
  rw [crc8, crc8, crcFold_append, crcFold_append]
  exact (crcFold_injective S).eq_iff.trans step8_right_inj

theorem one_shiftLeft_ne_zero {j : Nat} (hj : j < 8) : (1 : Byte) <<< j ≠ 0x00 := by
  revert j
  decide

/-- Settles O17: the flipped byte differs from the old one, and so then do the frames' `crc8`. -/
theorem crcDetectsSingleBit : Obligations.CrcDetectsSingleBit := by
  intro F k j b hb hj valid flipped
  obtain ⟨hk, byte⟩ := List.getElem?_eq_some_iff.1 hb
  have parts : F = F.take k ++ b :: F.drop (k + 1) := by
    rw [← byte, List.cons_getElem_drop_succ, List.take_append_drop]
  rw [parts] at valid
  rw [List.set_eq_take_append_cons_drop, if_pos hk, ← valid, crc8_mid_inj] at flipped
  exact one_shiftLeft_ne_zero hj ((BitVec.xor_right_inj b).1 (flipped.trans BitVec.xor_zero.symm))

/-! ## The commands (R103 to R105) -/

/-- An acceptance that writes `crc_acc` and answers at once, as one record update. -/
theorem deliver_latch_crcAcc (h : Nat) (w : Word) (e : ErrCode) (d acc : Byte) (s : State) :
    deliver h e d { latch h w s with crcAcc := acc } =
      { s with
        crcAcc := acc
        reqs := answeredReqs s h e.code d
        hist := s.hist ++ [.cmd h w, .rsp h e.code d] } := by
  have reqs : (deliver h e d (latch h w s)).reqs = answeredReqs s h e.code d := deliver_latch_reqs h w e d s
  have hist : (deliver h e d (latch h w s)).hist = s.hist ++ [.cmd h w, .rsp h e.code d] := by simp
  rw [← reqs, ← hist]
  rfl

theorem exec_crcclr (s : State) :
    exec .crcclr s = .next { s with
      crcAcc := 0x00
      reqs := answeredReqs s s.reqId 0 0x00
      hist := s.hist ++ [.cmd s.reqId 0x0800, .rsp s.reqId 0 0x00] } :=
  congrArg Host.Outcome.next (deliver_latch_crcAcc s.reqId 0x0800 .ok 0x00 0x00 s)

theorem encode_crcfeed (d : Byte) : encode (.crcfeed d) = 0x0900 ||| d.setWidth 16 := rfl

theorem exec_crcfeed (s : State) (d : Byte) :
    exec (.crcfeed d) s = .next { s with
      crcAcc := step8 s.crcAcc d
      reqs := answeredReqs s s.reqId 0 (step8 s.crcAcc d)
      hist := s.hist ++ [.cmd s.reqId (0x0900 ||| d.setWidth 16), .rsp s.reqId 0 (step8 s.crcAcc d)] } := by
  rw [← encode_crcfeed]
  exact congrArg Host.Outcome.next (deliver_latch_crcAcc s.reqId _ .ok _ _ s)

theorem crcOutcome_of_ne_zero {acc : Byte} (h : acc ≠ 0x00) : crcOutcome acc = .crc :=
  if_neg fun zero => h (beq_iff_eq.1 zero)

/-- Settles O12: the next state, and the one word of the op by the decoder's inverse. -/
theorem crcclrClears : Obligations.CrcclrClears := by
  refine ⟨exec_crcclr, fun arg i => ?_⟩
  rw [decode_eq_ok_iff, word_eq_iff, opField_encode, opField_mkWord, argField_mkWord]
  constructor
  · rintro ⟨op, operand⟩
    have row : i.mnemonic = .crcclr := Mnemonic.opcode_injective op
    obtain rfl : i = .crcclr := (instrOf_encode i).symm.trans (by rw [row]; rfl)
    exact ⟨operand.symm, rfl⟩
  · rintro ⟨rfl, rfl⟩
    exact ⟨rfl, rfl⟩

/-- Settles O13: the next state; the word is the command's; the examples by evaluation. -/
theorem crcfeedFolds : Obligations.CrcfeedFolds :=
  ⟨exec_crcfeed, fun d => decode_eq_ok_iff.2 (encode_crcfeed d), step8_self, rfl, rfl, rfl, rfl⟩

/-- Settles O14: both answers are CRCCHK's, by its test of the accumulator. -/
theorem crcchkChecks : Obligations.CrcchkChecks := by
  constructor
  · intro s zero
    have outcome : crcOutcome s.crcAcc = .ok := congrArg crcOutcome zero
    rw [exec, execCrcchk, outcome]
    exact congrArg Host.Outcome.next (deliver_latch_crcAcc s.reqId 0x0A00 .ok 0x00 s.crcAcc s)
  · intro s nonzero
    rw [exec, execCrcchk, crcOutcome_of_ne_zero nonzero]
    exact congrArg Host.Outcome.next (deliver_latch_crcAcc s.reqId 0x0A00 .crc s.crcAcc s.crcAcc s)

/-! ## What the commands compute (R106) -/

theorem execAll_cons {i : Instr} {is : List Instr} {s t : State} (answers : exec i s = .next t) :
    execAll (i :: is) s = execAll is t := by
  rw [execAll, answers]

/-- Feeding a byte sequence folds it into the accumulator, and the last response keeps carrying the accumulator. -/
theorem execAll_crcfeed (bs : List Byte) (s : State) (carried : s.hist.getLast? = some (.rsp s.reqId 0 s.crcAcc)) :
    ∃ t, execAll (bs.map Instr.crcfeed) s = .next t ∧ t.crcAcc = bs.foldl step8 s.crcAcc ∧
      t.hist.getLast? = some (.rsp s.reqId 0 (bs.foldl step8 s.crcAcc)) ∧
      t.lockOwner = s.lockOwner ∧ t.baudMode = s.baudMode ∧ t.phase = s.phase ∧ t.txq = s.txq := by
  induction bs generalizing s with
  | nil => exact ⟨s, rfl, rfl, carried, rfl, rfl, rfl, rfl⟩
  | cons b bs ih =>
    rw [List.map_cons, execAll_cons (exec_crcfeed s b)]
    exact ih _ (by simp)

/-- Settles O15: CRCCLR's response carries the 0x00 from which the feeds fold. -/
theorem crcCommandsComputeCrc8 : Obligations.CrcCommandsComputeCrc8 := by
  intro s bs
  rw [execAll_cons (exec_crcclr s)]
  exact execAll_crcfeed bs _ (by simp)

end Sys2Proof.Machine
end

section
/-! PROOF. The statements of 41_bitcodec.md: the slots of a byte and back (R120 to R126), the acceptance of the bit
commands (R135 to R137), LINE_TX, LINE_RX and TIMER (R124, R128 to R133), the completion of a bit command or of a frame
that expired short (R131, R138), and the end of a bus command by expiry. -/

namespace Sys2Proof.Machine

/-! ## The codec (R120, R121, R125, R126) -/

theorem dec_iff (e : Byte) : dec e = true ↔ e = 0xFF := beq_iff_eq

/-- Settles O18: the patterns by evaluation, the decode by its one comparison. -/
theorem slotPatternAndDecode : Obligations.SlotPatternAndDecode := ⟨rfl, rfl, rfl, dec_iff⟩

theorem slots_eq_map (v : Byte) : slots v = (List.range 8).map fun i => pat (v.getLsbD i) := rfl

theorem getLsbD_zext8 (b : Bool) (i : Nat) : (zext8 b).getLsbD i = (b && decide (i = 0)) := by
  cases b <;> simp [zext8, BitVec.getLsbD_one]

/-- R126, for any number of echoes: each shifts the ones after it one bit up. -/
theorem getLsbD_assemble {i : Nat} (hi : i < 8) (es : List Byte) :
    (assemble es).getLsbD i = true ↔ es[i]? = some 0xFF := by
  induction es generalizing i with
  | nil => simp [assemble]
  | cons e es ih =>
    rw [assemble, BitVec.getLsbD_or, BitVec.getLsbD_shiftLeft, getLsbD_zext8]
    cases i with
    | zero => simp [dec_iff]
    | succ i =>
      rw [List.getElem?_cons_succ, ← ih (Nat.lt_of_succ_lt hi)]
      simp [hi, -BitVec.getLsbD_eq_getElem]

/-- Settles O19: the slots are the patterns of the bits in order, and `assemble` reads them back bit by bit. -/
theorem byteToSlotsAndBack : Obligations.ByteToSlotsAndBack := by
  refine ⟨fun v => ⟨rfl, fun i hi => ?_⟩, fun es _ i hi => getLsbD_assemble hi es⟩
  rw [slots_eq_map, List.getElem?_map, List.getElem?_range hi]
  rfl

/-! ## The acceptance of the bit commands (R135 to R137) -/

/-- The acceptance of a bus command whose word has the given fields, as one record update. -/
theorem exec_bus_accepted {i : Instr} {n : FrameLen} {op arg : Byte} (frame : busFrame i = some n)
    (word : encode i = mkWord op arg) (s : State) :
    exec i s = .next (accepted s op arg n (busPatterns i) (if i = .reset then .reset else s.baudMode)) := by
  rw [exec_bus frame, acceptBus_eq, word, opField_mkWord, argField_mkWord]
  simp only [decide_eq_true_eq, accepted]

/-- Settles O23: both are bus commands other than RESET. -/
theorem bitCommandsAccepted : Obligations.BitCommandsAccepted :=
  ⟨fun s _ => exec_bus_accepted rfl rfl s, fun s => exec_bus_accepted rfl rfl s⟩

/-! ## LINE_TX (R128) -/

theorem lineTx_of_cons {s : State} {b : Byte} {bs : List Byte} (queue : s.txq = b :: bs) :
    lineTx s = { s with txq := bs, hist := s.hist ++ [.tx b s.baudMode] } := by
  rw [lineTx, queue]
  rfl

theorem lineTx_of_nil {s : State} (sent : s.txq = []) : lineTx s = s := by
  rw [lineTx, sent]

/-- Settles O30: the two shapes of the queue. -/
theorem lineTxSendsHead : Obligations.LineTxSendsHead :=
  ⟨fun _ _ _ queue => congrArg Host.Outcome.next (lineTx_of_cons queue),
    fun _ sent => congrArg Host.Outcome.next (lineTx_of_nil sent)⟩

/-! ## LINE_RX (R124, R129, R130) -/

theorem frameOpen_eq_false_iff (s : State) :
    frameOpen s = false ↔ ¬(s.frArmed = true ∧ s.frExpired = false ∧ s.frCnt < s.frN.toNat) := by
  rw [← frameOpen_iff, Bool.not_eq_true]

/-- What ECHO_MODEL admits (R124): under ANY every byte, under WIRED_AND none with a 1 where the place's pattern has a 0. -/
theorem echoAdmitted_iff (s : State) (e : Byte) :
    echoAdmitted s e = true ↔
      s.params.echoModel = .any ∨ ∀ p, (framePatterns s.cur)[s.frCnt]? = some p → e &&& ~~~p = 0x00 := by
  unfold echoAdmitted
  cases s.params.echoModel with
  | any => simp
  | wiredAnd => cases (framePatterns s.cur)[s.frCnt]? <;> simp

theorem lineRx_taken {s : State} {e : Byte} (frame : frameOpen s = true) (echo : echoAdmitted s e = true) :
    lineRx e s = { s with
      frBuf := s.frBuf.setIfInBounds s.frCnt e, frCnt := s.frCnt + 1, hist := s.hist ++ [.rx e true] } := by
  rw [lineRx, if_pos frame, if_pos echo]
  rfl

theorem lineRx_inadmissible {s : State} {e : Byte} (frame : frameOpen s = true) (echo : ¬echoAdmitted s e = true) :
    lineRx e s = s := by
  rw [lineRx, if_pos frame, if_neg echo]

theorem lineRx_dropped {s : State} {e : Byte} (frame : frameOpen s = false) :
    lineRx e s = { s with hist := s.hist ++ [.rx e false] } := by
  rw [lineRx, frame]
  rfl

/-- Settles O31: an open frame takes or refuses the byte as ECHO_MODEL admits it, and no other frame takes any. -/
theorem lineRxTakesOrDrops : Obligations.LineRxTakesOrDrops := by
  refine ⟨fun s e echo armed waiting short => ?_, fun s e closed => ?_,
    fun s e p wired place bad armed waiting short => ?_⟩
  · have admitted : echoAdmitted s e = true :=
      (echoAdmitted_iff s e).2 <| echo.imp_right fun ⟨p, place, masked⟩ q hq => by
        rwa [Option.some.inj (hq.symm.trans place)]
    exact congrArg Host.Outcome.next (lineRx_taken ((frameOpen_iff s).2 ⟨armed, waiting, short⟩) admitted)
  · exact congrArg Host.Outcome.next (lineRx_dropped ((frameOpen_eq_false_iff s).2 closed))
  · have refused : ¬echoAdmitted s e = true := fun admitted => by
      rcases (echoAdmitted_iff s e).1 admitted with any | masked
      · simp [wired] at any
      · exact bad (masked p place)
    exact congrArg Host.Outcome.next (lineRx_inadmissible ((frameOpen_iff s).2 ⟨armed, waiting, short⟩) refused)

/-- A byte seen taken was taken by an open frame, as an echo that ECHO_MODEL admits. -/
theorem Effect.rx_taken {a : Action} {s t : State} (eff : Effect a s t) {e : Byte}
    (seen : t.hist = s.hist ++ [.rx e true]) : frameOpen s = true ∧ echoAdmitted s e = true := by
  cases eff with
  | rxTaken b _ frame echo =>
    obtain rfl : b = e := by simpa using seen
    exact ⟨frame, echo⟩
  | bus => simp [acceptBus_eq] at seen
  | complete => simp [completed] at seen
  | blockReset => simp [Machine.blockReset] at seen
  | _ => simp at seen

/-- In XFER the latched command has a pattern for each place of its frame (R137). -/
theorem Inv.framePatterns_length {s : State} (inv : Inv s) (xfer : s.phase = .xfer) :
    (framePatterns s.cur).length = s.frN.toNat := by
  obtain ⟨i, frame, word⟩ := inv.xfer_latch xfer
  have latch : s.cur = ⟨s.cur.req, opField (encode i), argField (encode i)⟩ := by
    rw [word, opField_mkWord, argField_mkWord]
  rw [latch, framePatterns_encode frame, busPatterns_length frame]

/-- Settles O32: the byte went to an open frame, whose place has a pattern that WIRED_AND held the byte to. -/
theorem wiredAndEcho : Obligations.WiredAndEcho := by
  intro s t e inv wired xfer hs seen
  obtain ⟨frame, echo⟩ : frameOpen s = true ∧ echoAdmitted s e = true := (step_effect hs).rx_taken seen
  obtain ⟨-, -, short⟩ := (frameOpen_iff s).1 frame
  obtain ⟨p, place⟩ : ∃ p, (framePatterns s.cur)[s.frCnt]? = some p :=
    ⟨_, List.getElem?_eq_getElem (short.trans_eq (inv.framePatterns_length xfer).symm)⟩
  have masked : e &&& ~~~p = 0x00 := by
    rcases (echoAdmitted_iff s e).1 echo with any | masked
    · simp [wired] at any
    · exact masked p place
  refine ⟨p, place, masked, ?_⟩
  rintro rfl
  exact BitVec.and_allOnes.symm.trans masked

/-! ## TIMER and the clock (R132, R133, R249) -/

/-- T_READ's bound stands in the way under TIMED only (R133). -/
theorem boundReached_iff (s : State) :
    boundReached s = true ↔ s.params.timeoutModel = .untimed ∨ s.params.tRead ≤ s.frTimer := by
  unfold boundReached
  cases s.params.timeoutModel <;> simp

theorem timer_expires {s : State} (frame : frameOpen s = true) (bound : boundReached s = true) :
    timer s = { s with frExpired := true, hist := s.hist ++ [.expire] } := by
  rw [timer, frame, bound]
  rfl

theorem timer_of_not_due {s : State} (notDue : frameOpen s = true → ¬boundReached s = true) : timer s = s := by
  rcases timer_cases s with ⟨frame, reached, -⟩ | ⟨-, stays⟩
  · exact absurd reached (notDue frame)
  · exact stays

/-- Settles O33: TIMER fires on an open frame whose bound is reached, and only there. -/
theorem timerExpiresOpenFrame : Obligations.TimerExpiresOpenFrame := by
  refine ⟨fun s armed waiting short bound => ?_, fun s timed early => ?_, fun s closed => ?_⟩
  · have reached : boundReached s = true := (boundReached_iff s).2 (bound.imp_right Eq.ge)
    exact congrArg Host.Outcome.next (timer_expires ((frameOpen_iff s).2 ⟨armed, waiting, short⟩) reached)
  · have notReached : ¬boundReached s = true := fun reached => by
      rcases (boundReached_iff s).1 reached with untimed | elapsed
      · simp [timed] at untimed
      · exact absurd elapsed (Nat.not_le.2 early)
    exact congrArg Host.Outcome.next (timer_of_not_due fun _ => notReached)
  · exact congrArg Host.Outcome.next (timer_of_not_due fun frame => absurd ((frameOpen_iff s).1 frame) closed)

theorem tick_at_bound {s : State} (timed : s.params.timeoutModel = .timed) (frame : frameOpen s = true)
    (elapsed : s.params.tRead ≤ s.frTimer) : tick s = s := by
  simp [tick, timed, frame, elapsed]

theorem tick_below_bound {s : State} (early : s.frTimer < s.params.tRead) :
    tick s = { s with
      frTimer := (if frameOpen s then s.frTimer + 1 else s.frTimer)
      reqs := s.reqs.map fun r => { r with host := tickHost r.host } } := by
  simp [tick, Nat.not_le.2 early]

/-- Settles O34: the clock on both sides of the bound. -/
theorem timedBoundIsExact : Obligations.TimedBoundIsExact := by
  refine ⟨fun s timed frame elapsed => ?_, fun s frame early => ⟨_, rfl, ?_⟩⟩
  · exact congrArg Host.Outcome.next (tick_at_bound timed frame elapsed.ge)
  · rw [tick_below_bound early]
    exact ⟨if_pos frame, rfl⟩

/-! ## Completion (R131, R135, R136, R138) -/

/-- An answer from the restored idle block is the completed state: a RESET takes the rate back, no other command does. -/
theorem deliver_restoreIdle (s : State) (e : ErrCode) (d : Byte) :
    deliver s.cur.req e d (restoreIdle s) =
      completed s (if s.cur.op = 0x01 then .normal else s.baudMode) e.code d := rfl

theorem finish_of_wrbit {c : Latch} (op : c.op = 0x02) (e : List Byte) (s : State) :
    finish c e s = .next (finishWrbit c e s) := by
  rw [finish, op]
  rfl

theorem finish_of_rdbit {c : Latch} (op : c.op = 0x03) (e : List Byte) (s : State) :
    finish c e s = .next (finishRdbit c e s) := by
  rw [finish, op]
  rfl

/-- WRBIT answers with the outcome of its echo check, OK or not, and the decoded echo (R135). -/
theorem finishWrbit_eq_deliver (c : Latch) (e : List Byte) (s : State) :
    finishWrbit c e s =
      deliver c.req (echoOutcome (zext8 (dec (e.headD 0))) (zext8 (c.arg.getLsbD 0))) (zext8 (dec (e.headD 0))) s := by
  unfold finishWrbit
  dsimp only
  split
  · rename_i ok
    rw [ok]
    rfl
  · rfl

/-- The first echo of a frame of either length. -/
theorem headD_echoes (s : State) : (echoes s).headD 0 = s.frBuf[0] := by
  cases h : s.frN <;> simp [echoes, FrameLen.toNat, h, List.headD_eq_head?_getD, List.head?_eq_getElem?]

theorem zext8_dec (e : Byte) : zext8 (dec e) = if e = 0xFF then 1 else 0 := by
  simp only [zext8, dec_iff]

theorem code_echoOutcome_zext8 (d b : Bool) :
    (echoOutcome (zext8 d) (zext8 b)).code = if d = true ↔ b = true then 0 else 5 := by
  cases d <;> cases b <;> rfl

/-- Settles O26: the full frame runs its finish, whose answer is the completed state at the rate it had. -/
theorem bitCommandsComplete : Obligations.BitCommandsComplete := by
  refine ⟨fun s b xfer sent op arg len cnt => ?_, fun s xfer sent op len cnt => ?_⟩
  · have bit : s.cur.arg.getLsbD 0 = b := by
      rw [arg]
      exact (getLsbD_zext8 b 0).trans (Bool.and_true b)
    rw [completeStep_full ⟨xfer, sent, op, len, cnt⟩, finish_of_wrbit op, finishWrbit_eq_deliver, deliver_restoreIdle,
      op, bit, headD_echoes, code_echoOutcome_zext8, zext8_dec]
    simp only [dec_iff]
    rfl
  · rw [completeStep_full ⟨xfer, sent, op, len, cnt⟩, finish_of_rdbit op, finishRdbit, respond_eq, deliver_restoreIdle,
      op, headD_echoes, zext8_dec]
    rfl

theorem completeStep_timedOut {s : State} (xfer : s.phase = .xfer) (sent : s.txq = []) (expired : s.frExpired = true)
    (short : s.frCnt ≠ s.frN.toNat) :
    completeStep s = .next (completed s (if s.cur.op = 0x01 then .normal else s.baudMode) 4 0x00) := by
  rw [completeStep, if_pos ((canComplete_iff s).2 ⟨xfer, sent, .inr expired⟩), if_neg short]
  rfl

/-- Settles O28: the expired frame is answered without its finish. -/
theorem timedOutFrameAnswered : Obligations.TimedOutFrameAnswered := fun _ => completeStep_timedOut

/-- An enabled completion answers the latched requester, with (READ_TIMEOUT, 0x00) if the frame is not full (R131, R138). -/
theorem Inv.completeStep_answers {s : State} (inv : Inv s) (enabled : canComplete s = true) :
    ∃ err d, completeStep s = .next (completed s (if s.cur.op = 0x01 then .normal else s.baudMode) err d) ∧
      (s.frCnt ≠ s.frN.toNat → err = 4 ∧ d = 0x00) := by
  obtain ⟨xfer, sent, ended⟩ := (canComplete_iff s).1 enabled
  by_cases full : s.frCnt = s.frN.toNat
  · rcases completeStep_cases (rfl : completeStep s = _) with ⟨disabled, -⟩ | ⟨-, e, d, done⟩ | ⟨-, -, corrupt⟩
    · simp [enabled] at disabled
    · exact ⟨e.code, d, done, fun short => absurd full short⟩
    · exact absurd (inv.latched_op xfer) corrupt
  · exact ⟨4, 0x00, completeStep_timedOut xfer sent (ended.resolve_left full) full, fun _ => ⟨rfl, rfl⟩⟩

theorem waitingOf_completed (s : State) (mode : BaudMode) (err : Nibble) (d : Byte) :
    waitingOf s.cur.req (completed s mode err d) = false := by
  rw [waitingOf_modify_self rfl]
  cases s.reqs[s.cur.req]? <;> rfl

/-! ## A bus command ends by expiry (R131, R133, R138) -/

theorem runSteps_of_sched {s t : State} {a : Action} {acts : List Action} (next : s.sched = a :: acts)
    (moves : runAction a (advance s) = .next t) (k : Nat) : runSteps (k + 1) s = runSteps k t := by
  rw [runSteps, step, nextAction_of_sched next, moves]

/-- The state once LINE_TX has sent the whole queue, with the schedule that is left. -/
def queueSent (s : State) (acts : List Action) : State :=
  { s with
    txq := []
    sched := acts
    hist := s.hist ++ s.txq.map (.tx · s.baudMode)
    turn := s.turn + s.txq.length }

/-- One LINE_TX step for each queued byte sends the queue. -/
theorem runSteps_lineTx (k : Nat) {acts : List Action} {s : State}
    (sched : s.sched = List.replicate s.txq.length .lineTx ++ acts) :
    runSteps (s.txq.length + k) s = runSteps k (queueSent s acts) := by
  induction queue : s.txq generalizing s with
  | nil =>
    have same : queueSent s acts = s := by
      cases s
      simp_all [queueSent]
    rw [same, List.length_nil, Nat.zero_add]
  | cons b bs ih =>
    rw [queue] at sched
    rw [List.length_cons, Nat.add_right_comm, runSteps_of_sched sched (lineTxSendsHead.1 (advance s) b bs queue),
      ih (congrArg List.tail sched) rfl]
    simp [queueSent, queue, Nat.add_assoc, Nat.add_comm 1]

theorem Inv.queueSent {s : State} (inv : Inv s) (acts : List Action) : Inv (queueSent s acts) :=
  { inv with
    idle_quiet := fun idle => by
      obtain ⟨normal, disarmed, zero, unexpired, -⟩ := inv.idle_quiet idle
      exact ⟨normal, disarmed, zero, unexpired, rfl⟩
    xfer_queue := fun _ => List.nil_suffix }

/-- Under UNTIMED a step of TIMER closes the frame, by expiry if it was open, and changes nothing else but the history. -/
theorem timer_closes {s : State} (untimed : s.params.timeoutModel = .untimed) :
    ∃ x es, runAction .timer s = .next { s with frExpired := x, hist := es } ∧
      frameOpen { s with frExpired := x, hist := es } = false := by
  rcases timer_cases s with ⟨-, -, fires⟩ | ⟨closed | early, stays⟩
  · exact ⟨true, _, congrArg Host.Outcome.next fires, by simp [frameOpen]⟩
  · exact ⟨s.frExpired, s.hist, congrArg Host.Outcome.next stays, closed⟩
  · simp [(boundReached_iff s).2 (.inl untimed)] at early

/-- With the queue sent, TIMER and then the completion end the command (R131, R133, R138). -/
theorem runSteps_timer_complete {s : State} {rest : List Action} (inv : Inv s) (untimed : s.params.timeoutModel = .untimed)
    (xfer : s.phase = .xfer) (sent : s.txq = []) (sched : s.sched = .timer :: .complete :: rest) :
    ∃ t, runSteps 2 s = .next t ∧ t.phase = .idle ∧ t.sched = rest ∧ waitingOf s.cur.req t = false ∧
      (s.frCnt < s.frN.toNat → t.hist.getLast? = some (.rsp s.cur.req 4 0x00)) := by
  obtain ⟨x, es, fires, closed⟩ := timer_closes (s := advance s) untimed
  have fired : Inv { advance s with frExpired := x, hist := es } := (runAction_effect fires).keeps_inv inv.advance
  have next : { advance s with frExpired := x, hist := es }.sched = .complete :: rest := congrArg List.tail sched
  have enabled : canComplete { advance s with frExpired := x, hist := es } = true :=
    canComplete_of_closed xfer sent (inv.xfer_armed xfer) inv.count_le closed
  obtain ⟨err, d, done, timedOut⟩ := fired.advance.completeStep_answers enabled
  refine ⟨_, (runSteps_of_sched sched fires 1).trans (runSteps_of_sched (a := .complete) next done 0), rfl,
    congrArg List.tail next, waitingOf_completed _ _ _ _, fun short => ?_⟩
  obtain ⟨rfl, rfl⟩ := timedOut short.ne
  exact List.getLast?_concat ..

/-- Settles O55: LINE_TX sends the queue, and with the queue sent the command ends by expiry. -/
theorem busCommandEndsByExpiry : Obligations.BusCommandEndsByExpiry := by
  intro s rest inv untimed xfer sched
  rw [runSteps_lineTx 2 sched]
  exact runSteps_timer_complete (inv.queueSent _) untimed xfer rfl rfl

end Sys2Proof.Machine
end

section
/-! PROOF. The statements of 42_bus.md: the classes of the presence byte (R150), the acceptance and the completion of
RESET, WRBYTE and RDBYTE (R151 to R154), and a byte command against its eight bit commands (R157). -/

namespace Sys2Proof.Machine

/-! ## The presence byte (R150) -/

theorem classify_eq_noDevice_iff (p : Byte) : classify p = .noDevice ↔ p = 0xF0 := by
  unfold classify
  split_ifs with noDevice
  · exact iff_of_true rfl noDevice
  all_goals exact iff_of_false nofun noDevice

theorem classify_eq_shortCircuit_iff (p : Byte) : classify p = .shortCircuit ↔ p = 0x00 := by
  unfold classify
  split_ifs with noDevice short
  · exact iff_of_false nofun (by rw [noDevice]; decide)
  · exact iff_of_true rfl short
  all_goals exact iff_of_false nofun short

/-- The two values that R150 tests first lie outside the range of PRESENT. -/
theorem classify_eq_present_iff (p : Byte) : classify p = .present ↔ 0x10 ≤ p.toNat ∧ p.toNat ≤ 0xE0 := by
  unfold classify
  split_ifs with noDevice short range
  · exact iff_of_false nofun (by rw [noDevice]; decide)
  · exact iff_of_false nofun (by rw [short]; decide)
  · exact iff_of_true rfl range
  · exact iff_of_false nofun range

/-- The malformed class is what the other three leave. -/
theorem classify_eq_malformed_iff_not (p : Byte) :
    classify p = .malformed ↔ ¬p = 0xF0 ∧ ¬p = 0x00 ∧ ¬(0x10 ≤ p.toNat ∧ p.toNat ≤ 0xE0) := by
  rw [← classify_eq_present_iff, ← classify_eq_noDevice_iff, ← classify_eq_shortCircuit_iff]
  cases classify p <;> simp

theorem classify_eq_malformed_iff (p : Byte) :
    classify p = .malformed ↔
      ((0x01 ≤ p.toNat ∧ p.toNat ≤ 0x0F) ∨ (0xE1 ≤ p.toNat ∧ p.toNat ≤ 0xEF) ∨
        (0xF1 ≤ p.toNat ∧ p.toNat ≤ 0xFF)) := by
  have byte : p.toNat < 256 := p.isLt
  have noDevice : p = 0xF0 ↔ p.toNat = 240 := BitVec.toNat_inj.symm
  have short : p = 0x00 ↔ p.toNat = 0 := BitVec.toNat_inj.symm
  rw [classify_eq_malformed_iff_not, noDevice, short]
  omega

/-- Settles O21: each class by its tests, and the counts by evaluation over the 256 values. -/
theorem presencePartition : Obligations.PresencePartition :=
  ⟨classify_eq_noDevice_iff, classify_eq_shortCircuit_iff, classify_eq_present_iff, classify_eq_malformed_iff,
    rfl, rfl⟩

/-! ## Acceptance (R151, R153, R154) -/

/-- Settles O22: RESET is the bus command that takes the reset rate. -/
theorem resetAccepted : Obligations.ResetAccepted := fun s => exec_bus_accepted rfl rfl s

/-- Settles O24: both are bus commands other than RESET; the queued bytes are `slots v`, written bit by bit, and the
eight release slots. -/
theorem byteCommandsAccepted : Obligations.ByteCommandsAccepted :=
  ⟨fun s _ => exec_bus_accepted rfl rfl s, fun s => exec_bus_accepted rfl rfl s⟩

/-! ## Completion of RESET (R152) -/

theorem finish_of_reset {c : Latch} (op : c.op = 0x01) (e : List Byte) (s : State) :
    finish c e s = .next (finishReset c e s) := by
  rw [finish, if_pos op]

/-- RESET answers with the code of its reply byte's class, and the byte on every path (R152). -/
theorem finishReset_eq_deliver (c : Latch) (e : List Byte) (s : State) :
    finishReset c e s = deliver c.req (classify (e.headD 0)).errCode (e.headD 0) s := by
  unfold finishReset
  dsimp only
  split
  · rename_i present
    rw [present]
    rfl
  · rfl

theorem code_errCode_classify (p : Byte) :
    (classify p).errCode.code =
      if p = 0xF0 then 1 else if p = 0x00 then 2 else if 0x10 ≤ p.toNat ∧ p.toNat ≤ 0xE0 then 0 else 3 := by
  unfold classify
  split_ifs <;> rfl

/-- Settles O25: the full frame runs RESET's finish, whose answer is the completed state at the normal rate. -/
theorem resetCompletes : Obligations.ResetCompletes := by
  intro s xfer sent op len cnt
  rw [completeStep_full ⟨xfer, sent, op, len, cnt⟩, finish_of_reset op, finishReset_eq_deliver, deliver_restoreIdle,
    if_pos op, headD_echoes, code_errCode_classify]

/-! ## Completion of WRBYTE and RDBYTE (R153, R154) -/

theorem finish_of_wrbyte {c : Latch} (op : c.op = 0x04) (e : List Byte) (s : State) :
    finish c e s = .next (finishWrbyte c e s) := by
  rw [finish, op]
  rfl

theorem finish_of_rdbyte {c : Latch} (op : c.op = 0x05) (e : List Byte) (s : State) :
    finish c e s = .next (finishRdbyte c e s) := by
  rw [finish, op]
  rfl

/-- WRBYTE answers with the outcome of its echo check, OK or not, and the assembled echoes (R153). -/
theorem finishWrbyte_eq_deliver (c : Latch) (e : List Byte) (s : State) :
    finishWrbyte c e s = deliver c.req (echoOutcome (assemble e) c.arg) (assemble e) s := by
  unfold finishWrbyte
  dsimp only
  split
  · rename_i ok
    rw [ok]
    rfl
  · rfl

theorem code_echoOutcome (d v : Byte) : (echoOutcome d v).code = if d = v then 0 else 5 := by
  unfold echoOutcome
  split_ifs <;> rfl

/-- The echoes of an 8-byte frame are the whole buffer. -/
theorem echoes_eight {s : State} (len : s.frN = .eight) : echoes s = s.frBuf.toList := by
  rw [echoes, len]
  exact List.take_of_length_le s.frBuf.length_toList.le

/-- Settles O27: the full frame runs its finish, whose answer is the completed state at the rate it had. -/
theorem byteCommandsComplete : Obligations.ByteCommandsComplete := by
  refine ⟨fun s xfer sent op len cnt => ?_, fun s xfer sent op len cnt => ?_⟩
  · rw [completeStep_full ⟨xfer, sent, op, len, cnt⟩, finish_of_wrbyte op, finishWrbyte_eq_deliver,
      deliver_restoreIdle, op, code_echoOutcome, echoes_eight len]
    rfl
  · rw [completeStep_full ⟨xfer, sent, op, len, cnt⟩, finish_of_rdbyte op, finishRdbyte, respond_eq,
      deliver_restoreIdle, op, echoes_eight len]
    rfl

/-! ## A byte command against eight bit commands (R157) -/

/-- The assembled byte is the one intended exactly when each echo decodes to its bit (R126). -/
theorem assemble_toList_eq_iff (e : Vector Byte 8) (v : Byte) :
    assemble e.toList = v ↔ ∀ i : Fin 8, (e[i] = 0xFF ↔ v.getLsbD i = true) := by
  have bit : ∀ i : Fin 8, (assemble e.toList).getLsbD i = true ↔ e[i] = 0xFF := fun i => by
    rw [getLsbD_assemble i.isLt]
    simp
  constructor
  · rintro rfl i
    exact (bit i).symm
  · intro agree
    refine BitVec.eq_of_getLsbD_eq fun i hi => ?_
    rw [Bool.eq_iff_iff]
    exact (bit ⟨i, hi⟩).trans (agree ⟨i, hi⟩)

/-- OR-ing from `a` is OR-ing from zero, then with `a`. -/
theorem foldl_or_eq (a : Byte) (l : List Byte) : l.foldl (· ||| ·) a = a ||| l.foldl (· ||| ·) 0 := by
  have zero : a ||| 0 = a := BitVec.or_zero
  rw [← List.foldl_assoc (op := fun x y : Byte => x ||| y), zero]

/-- A shift goes through the OR to each operand. -/
theorem foldl_or_shiftLeft (k : Nat) (l : List Byte) :
    l.foldl (· ||| ·) 0 <<< k = (l.map fun x : Byte => x <<< k).foldl (· ||| ·) 0 := by
  induction l using List.reverseRecOn with
  | nil => exact BitVec.zero_shiftLeft k
  | append_singleton l x ih =>
    simp only [List.foldl_append, List.map_append, List.map_cons, List.map_nil, List.foldl_cons, List.foldl_nil,
      BitVec.shiftLeft_or_distrib, ih]

/-- `assemble` is the OR of the decoded echoes, each shifted to its bit (R126). -/
theorem assemble_ofFn {n : Nat} (e : Fin n → Byte) :
    assemble (List.ofFn e) = (List.ofFn fun i => zext8 (dec (e i)) <<< i.val).foldl (· ||| ·) 0 := by
  induction n with
  | zero => rfl
  | succ n ih =>
    rw [List.ofFn_succ, assemble, ih, foldl_or_shiftLeft, List.map_ofFn, List.ofFn_succ, List.foldl_cons,
      foldl_or_eq (_ ||| _)]
    simp [Function.comp_def, BitVec.shiftLeft_add]

theorem assemble_toList (e : Vector Byte 8) :
    assemble e.toList = (List.ofFn fun i : Fin 8 => (if e[i] = 0xFF then (1 : Byte) else 0) <<< i.val).foldl (· ||| ·) 0 := by
  have list : e.toList = List.ofFn fun i : Fin 8 => e[i] := by
    rw [← List.ofFn_getElem (xs := e.toList)]
    simp
  rw [list, assemble_ofFn]
  simp only [zext8_dec]

/-- Settles O20: the completions are those of O26 and O27; the byte agrees when each bit does, and is the OR of the
bits. -/
theorem wrbyteEqualsEightWrbits : Obligations.WrbyteEqualsEightWrbits := by
  refine ⟨fun s bit ⟨xfer, sent, op, len, cnt⟩ bits => ?_, fun s bit ⟨xfer, sent, op, len, cnt⟩ bits => ?_⟩
  · refine ⟨_, _, fun i => if (s.frBuf[i] = 0xFF ↔ s.cur.arg.getLsbD i = true) then 0 else 5,
      fun i => if s.frBuf[i] = 0xFF then 1 else 0, byteCommandsComplete.1 s xfer sent op len cnt, fun i => ?_, ?_,
      assemble_toList _⟩
    · obtain ⟨⟨xfer, sent, op, len, cnt⟩, arg, echo⟩ := bits i
      simp only [← echo]
      exact bitCommandsComplete.1 (bit i) _ xfer sent op arg len cnt
    · simp [assemble_toList_eq_iff]
  · refine ⟨_, _, fun _ => 0, fun i => if s.frBuf[i] = 0xFF then 1 else 0,
      byteCommandsComplete.2 s xfer sent op len cnt, fun i => ?_, rfl, fun _ => rfl, assemble_toList _⟩
    obtain ⟨⟨xfer, sent, op, len, cnt⟩, echo⟩ := bits i
    simp only [← echo]
    exact bitCommandsComplete.2 (bit i) xfer sent op len cnt

end Sys2Proof.Machine
end

section
/-! PROOF. The statements of 43_lock.md: the words the gate holds (R180), ACQUIRE and RELEASE (R181, R182), what ends an
ownership (R184), what the lock protects (R185), and the order of exchanges (R186). -/

namespace Sys2Proof.Machine

/-! ## The gate (R180) -/

/-- Settles O9: the four conditions are the gate's, and a closed gate holds the word. -/
theorem heldWordStays : Obligations.HeldWordStays := by
  intro s h rest sched missing
  have held : canAccept h s = false := by
    rwa [← Bool.not_eq_true, canAccept_iff, ← Option.ne_none_iff_exists']
  rw [stepRunsScheduledAgent s _ rest sched]
  exact acceptStep_of_held held

/-- While the lock is owned the gate admits the owner only (R180). -/
theorem eq_owner_of_canAccept {h o : Nat} {s : State} (owned : s.lockOwner = some o) (gate : canAccept h s = true) :
    h = o := by
  by_contra other
  simp [canAccept_of_foreign_lock owned (Ne.symm other)] at gate

/-! ## ACQUIRE and RELEASE (R181, R182) -/

/-- An acceptance that writes the lock and answers at once, as one record update. -/
theorem deliver_latch_lockOwner (h : Nat) (w : Word) (e : ErrCode) (d : Byte) (owner : Option Nat) (s : State) :
    deliver h e d { latch h w s with lockOwner := owner } =
      { s with
        lockOwner := owner
        reqs := answeredReqs s h e.code d
        hist := s.hist ++ [.cmd h w, .rsp h e.code d] } :=
  congrArg (fun t : State => { t with lockOwner := owner }) (deliver_latch_crcAcc h w e d s.crcAcc s)

/-- Settles O35: the acceptance as one record update. -/
theorem acquireTakesLock : Obligations.AcquireTakesLock := fun s =>
  congrArg Host.Outcome.next (deliver_latch_lockOwner s.reqId 0x0C00 .ok 0x00 (some s.reqId) s)

/-- Settles O36: RELEASE's two branches, by its test of the owner. -/
theorem releaseFreesLock : Obligations.ReleaseFreesLock := by
  constructor
  · intro s owner
    rw [exec, execRelease, if_pos owner]
    exact congrArg Host.Outcome.next (deliver_latch_lockOwner s.reqId 0x0D00 .ok 0x00 none s)
  · intro s other
    rw [exec, execRelease, if_neg other]
    exact congrArg Host.Outcome.next (deliver_latch_lockOwner s.reqId 0x0D00 .notOwner 0x00 s.lockOwner s)

/-! ## What changes the lock and the accumulator (R184, R185) -/

/-- `crc_acc` and the lock stay as they are but at block reset and at the acceptance of a command that the gate admits;
there the lock changes only by the requester's ACQUIRE or the owner's RELEASE. -/
theorem Effect.crcAcc_lockOwner {a : Action} {s t : State} (eff : Effect a s t) :
    (t.crcAcc = s.crcAcc ∧ t.lockOwner = s.lockOwner) ∨ a = .blockReset ∨
      ∃ h i, a = .accept h ∧ canAccept h s = true ∧ slotOf h s = some (encode i) ∧
        (t.lockOwner ≠ s.lockOwner →
          (i = .acquire ∧ t.lockOwner = some h) ∨ (i = .release ∧ t.lockOwner = none ∧ s.lockOwner = some h)) := by
  cases eff with
  | idle => exact .inl ⟨rfl, rfl⟩
  | place => exact .inl ⟨rfl, rfl⟩
  | start => exact .inl ⟨rfl, rfl⟩
  | host => exact .inl ⟨rfl, rfl⟩
  | bus => rw [acceptBus_eq]; exact .inl ⟨rfl, rfl⟩
  | answer h w i _ e d acc owner gate slot legal _ _ lock =>
    have word : slotOf h s = some (encode i) := by rw [slot, decode_eq_ok_iff.1 legal]
    exact .inr (.inr ⟨h, i, rfl, gate, word, lock⟩)
  | illegal => exact .inl ⟨rfl, rfl⟩
  | complete => exact .inl ⟨rfl, rfl⟩
  | lineTx => exact .inl ⟨rfl, rfl⟩
  | rxTaken => exact .inl ⟨rfl, rfl⟩
  | rxDropped => exact .inl ⟨rfl, rfl⟩
  | expire => exact .inl ⟨rfl, rfl⟩
  | tick => exact .inl ⟨rfl, rfl⟩
  | lineReady => exact .inl ⟨rfl, rfl⟩
  | blockReset => exact .inr (.inl rfl)

/-- Settles O37: the acceptance that changes an owned lock is the owner's, and an ACQUIRE of the owner changes nothing. -/
theorem lockOutlivesErrors : Obligations.LockOutlivesErrors := by
  intro s t o owned hs lost
  rcases (step_effect hs).crcAcc_lockOwner with ⟨-, same⟩ | reset | ⟨h, i, turn, gate, word, lock⟩
  · exact absurd (same.trans owned) lost
  · exact .inl reset
  · obtain rfl : h = o := eq_owner_of_canAccept (s := advance s) owned gate
    have changed : t.lockOwner ≠ s.lockOwner := fun same => lost (same.trans owned)
    rcases lock changed with ⟨-, taken⟩ | ⟨rfl, -, -⟩
    · exact absurd taken lost
    · exact .inr ⟨turn, word⟩

/-- Settles O39: the acceptances that can write `crc_acc` are the owner's. -/
theorem lockProtectsCrc : Obligations.LockProtectsCrc := by
  intro s t o owned hs notOwner noReset
  rcases (step_effect hs).crcAcc_lockOwner with ⟨same, -⟩ | reset | ⟨h, i, turn, gate, -, -⟩
  · exact same
  · exact absurd reset noReset
  · obtain rfl : h = o := eq_owner_of_canAccept (s := advance s) owned gate
    exact absurd turn notOwner

/-! ## What an appended event says of the state before (R36, R180, R186) -/

/-- What holds of the state in which a step appends an event: an open gate for an acceptance (R180), a queued byte for one
sent (R128), an open frame for a byte taken and none for a byte dropped (R129, R130), an open frame for an expiry (R132). -/
def eventEnabled (s : State) : Event → Prop
  | .cmd h _ => canAccept h s = true
  | .tx b _ => ∃ bs, s.txq = b :: bs
  | .rx _ taken => frameOpen s = taken
  | .expire => frameOpen s = true
  | .rsp _ _ _ => True
  | .reset => True

/-- Every event that an effect appends was enabled. -/
theorem Effect.appends_enabled {a : Action} {s t : State} (eff : Effect a s t) :
    ∃ es, t.hist = s.hist ++ es ∧ ∀ x ∈ es, eventEnabled s x := by
  have unchanged : ∃ es, s.hist = s.hist ++ es ∧ ∀ x ∈ es, eventEnabled s x := ⟨[], by simp, nofun⟩
  have one : ∀ x, eventEnabled s x → ∃ es, s.hist ++ [x] = s.hist ++ es ∧ ∀ y ∈ es, eventEnabled s y :=
    fun x enabled => ⟨[x], rfl, List.forall_mem_singleton.2 enabled⟩
  have answered : ∀ h w e d, canAccept h s = true →
      ∃ es, s.hist ++ [.cmd h w, .rsp h e d] = s.hist ++ es ∧ ∀ y ∈ es, eventEnabled s y :=
    fun h w e d gate => ⟨_, rfl, List.forall_mem_cons.2 ⟨gate, List.forall_mem_singleton.2 trivial⟩⟩
  cases eff with
  | idle => exact unchanged
  | place => exact unchanged
  | start => exact unchanged
  | host => exact unchanged
  | bus _ _ _ _ _ gate => rw [acceptBus_eq]; exact one (.cmd _ _) gate
  | answer _ _ _ _ _ _ _ _ gate => exact answered _ _ _ _ gate
  | illegal _ _ _ gate => exact answered _ _ _ _ gate
  | complete => exact one (.rsp _ _ _) trivial
  | lineTx _ b bs queue => exact one (.tx b _) ⟨bs, queue⟩
  | rxTaken e _ frame => exact one (.rx e true) frame
  | rxDropped e _ closed => exact one (.rx e false) closed
  | expire _ frame => exact one .expire frame
  | tick => exact unchanged
  | lineReady => exact unchanged
  | blockReset => exact one .reset trivial

theorem Effect.eventEnabled_of_mem {a : Action} {s t : State} (eff : Effect a s t) {es : List Event} {x : Event}
    (grown : t.hist = s.hist ++ es) (new : x ∈ es) : eventEnabled s x := by
  obtain ⟨appended, grown', enabled⟩ := eff.appends_enabled
  obtain rfl : es = appended := List.append_cancel_left (grown.symm.trans grown')
  exact enabled x new

/-- Settles O38: the acceptance passed the gate, which admits the owner only. -/
theorem onlyOwnerIsAccepted : Obligations.OnlyOwnerIsAccepted := by
  intro s t o h w es owned hs grown new
  have gate : canAccept h (advance s) = true := (step_effect hs).eventEnabled_of_mem grown new
  exact eq_owner_of_canAccept owned gate

theorem Inv.xfer_of_queued {s : State} (inv : Inv s) (queued : s.txq ≠ []) : s.phase = .xfer := by
  cases hp : s.phase with
  | idle =>
    obtain ⟨-, -, -, -, sent⟩ := inv.idle_quiet hp
    exact absurd sent queued
  | xfer => rfl

/-- Settles O49: a byte sent was queued and a byte taken had an open frame, both of which only XFER has. -/
theorem exchangesOnlyInXfer : Obligations.ExchangesOnlyInXfer := by
  intro s t es x inv hs grown new exchange
  have enabled : eventEnabled (advance s) x := (step_effect hs).eventEnabled_of_mem grown new
  cases x with
  | tx b mode =>
    obtain ⟨bs, queue⟩ := enabled
    exact inv.xfer_of_queued fun sent => List.cons_ne_nil b bs (queue.symm.trans sent)
  | rx b taken =>
    obtain rfl : taken = true := exchange
    exact inv.xfer_of_open enabled
  | cmd => cases exchange
  | expire => cases exchange
  | rsp => cases exchange
  | reset => cases exchange

end Sys2Proof.Machine
end

section
/-! PROOF. The statements of 44_host_transactions.md: the temperature decode (R211), a `!` statement that is answered
(R201, R202), and `abort(E)` (R201). -/

namespace Sys2Proof.Machine

/-! ## The temperature (R211) -/

/-- Byte 1 is the high byte: "little-endian" (R211). -/
theorem toNat_append_byte (b1 b0 : Byte) : (b1 ++ b0).toNat = b0.toNat + 256 * b1.toNat := by
  rw [BitVec.toNat_append, ← Nat.shiftLeft_add_eq_or_of_lt b0.isLt, Nat.shiftLeft_eq]
  omega

/-- The sign of the 16-bit value is the high byte's top bit. -/
theorem rawTemperature_eq (b0 b1 : Byte) :
    rawTemperature b0 b1 =
      if b1.toNat < 128 then (b0.toNat + 256 * b1.toNat : Int) else (b0.toNat + 256 * b1.toNat : Int) - 65536 := by
  have low : b0.toNat < 256 := b0.isLt
  rw [rawTemperature, BitVec.toInt_eq_toNat_cond, toNat_append_byte]
  split <;> split <;> omega

/-- Dividing by 16 loses nothing: the temperature is an exact rational (R211). -/
theorem degrees_mul_sixteen (raw : Int) : degrees raw * 16 = raw := div_mul_cancel₀ _ (by norm_num)

/-- Settles O57: the value by its two bytes; its range is that of a signed 16-bit value. -/
theorem temperatureDecode : Obligations.TemperatureDecode := fun b0 b1 =>
  ⟨rawTemperature_eq b0 b1, BitVec.le_toInt (b1 ++ b0), Int.le_of_lt_add_one (BitVec.toInt_lt (x := b1 ++ b0)),
    degrees_mul_sixteen _⟩

/-! ## Taking a response (R201) -/

theorem ErrCode.code_eq_zero_iff (e : ErrCode) : e.code = 0 ↔ e = .ok := by cases e <;> decide

/-- A waiting host with a response of code 0 to 8 takes it. -/
theorem hostAwait_answered {r : Requester} {p : Response} (answer : r.inbox = some p) {e : ErrCode}
    (known : ErrCode.ofCode p.err = some e) :
    hostAwait r = .ok { r with inbox := none, host := onResponse e p.data r.host } := by
  simp only [hostAwait, answer, known]

/-- A `!` statement that fails binds its response and aborts with its error. -/
theorem takeResponse_bang_error {e : ErrCode} (failed : e ≠ .ok) (d : Byte) (p : HostProc) :
    takeResponse true e d p =
      { p with err := e.code, d := d, holds := holdsAfter p e, ctl := .abort e.code } := by
  simp [takeResponse, failed]

/-- A `!` statement that succeeds binds its response, a READBYTES statement its byte too, and goes on to the next one. -/
theorem takeResponse_bang_ok (d : Byte) (p : HostProc) :
    ∃ buf, takeResponse true .ok d p =
      { p with err := 0, d := d, holds := holdsAfter p .ok, buf := buf, idx := p.idx + 1, ctl := .run } := by
  obtain ⟨buf, bound⟩ := bindRead_eq { p with err := 0, d := d, holds := holdsAfter p .ok }
  exact ⟨buf, congrArg nextStmt bound⟩

/-- Settles O58: the response's code decides between R201's two continuations of a `!` statement. -/
theorem bangStatementAborts : Obligations.BangStatementAborts := by
  intro s h r p hr ctl answer le
  obtain ⟨e, known⟩ := ErrCode.ofCode_of_le le
  have code : e.code = p.err := ErrCode.code_of_ofCode known
  have taken : hostRun s.turn s.params r =
      .ok { r with inbox := none, host := takeResponse true e p.data r.host } := by
    simp only [hostRun, ctl, hostAwait_answered answer known, onResponse]
  refine ⟨_, _, hostStep_ok hr taken, rfl, rfl, ?_⟩
  by_cases ok : e = .ok
  · obtain rfl := ok
    obtain ⟨buf, bound⟩ := takeResponse_bang_ok p.data r.host
    rw [bound]
    exact ⟨code, rfl, rfl, rfl, fun failed => absurd code.symm failed, fun _ => ⟨rfl, rfl⟩⟩
  · rw [takeResponse_bang_error ok, code]
    exact ⟨rfl, rfl, rfl, rfl, fun _ => rfl, fun zero => absurd (e.code_eq_zero_iff.1 (code.trans zero)) ok⟩

/-! ## `abort(E)` (R201) -/

theorem issueWord_free {r : Requester} (slot : r.slot = none) (waiting : r.waiting = false) (w : Word) (after : HostCtl) :
    issueWord w after r = { r with slot := some w, inbox := none, host := { r.host with ctl := after } } := by
  rw [issueWord, if_pos ((canPlace_iff r).2 ⟨slot, waiting⟩)]
  rfl

section
variable {turn : Nat} {ps : Params} {r : Requester}

theorem hostRun_abortStmt {a : AbortCode} (ctl : r.host.ctl = .run)
    (stmt : r.host.prog[r.host.idx]? = some (.abort a)) :
    hostRun turn ps r = .ok { r with host := { r.host with ctl := .abort (abortError r.host a) } } := by
  simp only [hostRun, ctl, hostStmt, stmt]

theorem hostRun_abort_holding {e : Nibble} (ctl : r.host.ctl = .abort e) (holds : r.host.holds = true) :
    hostRun turn ps r = .ok (issueWord (encode .release) (.awaitAbort e) r) := by
  simp only [hostRun, ctl, holds, if_true]

theorem hostRun_abort_lockless {e : Nibble} (ctl : r.host.ctl = .abort e) (lockless : r.host.holds = false) :
    hostRun turn ps r = .ok { r with host := { r.host with ctl := .done (.error e) } } := by
  simp [hostRun, ctl, lockless]

/-- The response to the RELEASE of an abort ends the transaction whatever its code: it is ignored (R201). -/
theorem hostRun_awaitAbort {e : Nibble} {p : Response} (ctl : r.host.ctl = .awaitAbort e) (answer : r.inbox = some p)
    (le : p.err.toNat ≤ 8) :
    hostRun turn ps r =
      .ok { r with inbox := none, host := { r.host with ctl := .done (.error e), holds := false } } := by
  obtain ⟨code, known⟩ := ErrCode.ofCode_of_le le
  simp only [hostRun, ctl, hostAwait_answered answer known, onResponse]

end

/-- Settles O60: an abort's four moments, each one step of the host's program. -/
theorem abortStatementEnds : Obligations.AbortStatementEnds := by
  refine ⟨?_, ?_, ?_, ?_⟩
  · intro s h r a hr ctl stmt
    cases a <;> exact hostStep_ok hr (hostRun_abortStmt ctl stmt)
  · intro s h r e hr ctl holds slot waiting
    exact hostStep_ok hr ((hostRun_abort_holding ctl holds).trans (congrArg _ (issueWord_free slot waiting _ _)))
  · intro s h r e hr ctl lockless
    exact hostStep_ok hr (hostRun_abort_lockless ctl lockless)
  · intro s h r e p hr ctl answer le
    exact hostStep_ok hr (hostRun_awaitAbort ctl answer le)

end Sys2Proof.Machine
end

section
/-! PROOF. The statements of 60_exceptions.md: the account of commands and responses (R245, R272), the fixed parameters
(R252), the answer of a bus command whatever the order of its line steps (R241), and the reserved codes (R240). -/

namespace Sys2Proof.Machine

/-! ## One response per command (R245, R272) -/

theorem outstanding_concat (h : Nat) (es : List Event) (x : Event) :
    outstanding h (es ++ [x]) = tally h (outstanding h es) x := List.foldl_concat ..

/-- A command answered in its own acceptance leaves the count as it was. -/
theorem outstanding_answered (h k : Nat) (es : List Event) (w : Word) (e : Nibble) (d : Byte) :
    outstanding h (es ++ [.cmd k w, .rsp k e d]) = outstanding h es := by
  rw [List.append_cons, outstanding_concat, outstanding_concat]
  by_cases own : k = h <;> simp [tally, own]

/-- The number of commands that the block holds for requester h: the one in execution, if it is h's. -/
def inExecution (h : Nat) (s : State) : Int := if s.phase = .xfer ∧ s.cur.req = h then 1 else 0

theorem inExecution_of_idle {s : State} (idle : s.phase = .idle) (h : Nat) : inExecution h s = 0 :=
  if_neg fun running => by simp [idle] at running

/-- Under the invariant the requester that waits is that of the command in execution, so the account speaks of the phase
and the latch only. -/
theorem Inv.accounted_iff {s : State} (inv : Inv s) : Accounted s ↔ ∀ h, outstanding h s.hist = inExecution h s := by
  simp only [Accounted, inv.waits, inExecution]

/-- Each effect moves the count of a requester's unanswered commands as it moves the block's command in execution. -/
theorem Effect.keeps_account {a : Action} {s t : State} (eff : Effect a s t) {h : Nat}
    (account : outstanding h s.hist = inExecution h s) : outstanding h t.hist = inExecution h t := by
  have silent : ∀ x, tally h (outstanding h s.hist) x = outstanding h s.hist →
      outstanding h (s.hist ++ [x]) = inExecution h s := fun x same =>
    (outstanding_concat h s.hist x).trans (same.trans account)
  cases eff with
  | idle => exact account
  | place => exact account
  | start => exact account
  | host => exact account
  | bus k w i n _ gate =>
    obtain ⟨-, idle, -, -⟩ := (canAccept_iff k s).1 gate
    rw [inExecution_of_idle idle] at account
    rw [acceptBus_eq, outstanding_concat, account]
    simp [tally, inExecution]
  | answer => exact (outstanding_answered ..).trans account
  | illegal => exact (outstanding_answered ..).trans account
  | complete _ e d enabled =>
    obtain ⟨xfer, -, -⟩ := (canComplete_iff s).1 enabled
    rw [inExecution_of_idle rfl, completed, outstanding_concat, account, inExecution]
    by_cases own : s.cur.req = h <;> simp [tally, own, xfer]
  | lineTx => exact silent _ rfl
  | rxTaken => exact silent _ rfl
  | rxDropped => exact silent _ rfl
  | expire => exact silent _ rfl
  | tick => exact account
  | lineReady => exact account
  | blockReset => exact outstanding_concat h s.hist .reset

/-- Settles O50: before and after the step the invariant reads the account off the phase and the latch, and there each
effect keeps it. -/
theorem oneResponsePerCommand : Obligations.OneResponsePerCommand := by
  intro s t inv account hs
  rw [inv.accounted_iff] at account
  rw [(inv.of_step hs).accounted_iff]
  exact fun h => (step_effect hs).keeps_account (account h)

/-! ## The parameters (R252) -/

/-- Every effect writes requesters' records in place and no parameter. -/
theorem Effect.keeps_parameters {a : Action} {s t : State} (eff : Effect a s t) :
    t.params = s.params ∧ t.reqs.length = s.reqs.length := by
  cases eff with
  | idle => exact ⟨rfl, rfl⟩
  | place => exact ⟨rfl, List.length_modify ..⟩
  | start => exact ⟨rfl, List.length_modify ..⟩
  | host => exact ⟨rfl, List.length_modify ..⟩
  | bus => rw [acceptBus_eq]; exact ⟨rfl, List.length_modify ..⟩
  | answer => exact ⟨rfl, List.length_modify ..⟩
  | illegal => exact ⟨rfl, List.length_modify ..⟩
  | complete => exact ⟨rfl, List.length_modify ..⟩
  | lineTx => exact ⟨rfl, rfl⟩
  | rxTaken => exact ⟨rfl, rfl⟩
  | rxDropped => exact ⟨rfl, rfl⟩
  | expire => exact ⟨rfl, rfl⟩
  | tick => exact ⟨rfl, List.length_map ..⟩
  | lineReady => exact ⟨rfl, rfl⟩
  | blockReset => exact ⟨rfl, List.length_map ..⟩

/-- Settles O51: no effect writes the parameters or adds or drops a requester. -/
theorem parametersFixed : Obligations.ParametersFixed := fun _ _ hs => (step_effect hs).keeps_parameters

/-! ## The line steps of an exchange (R128, R129) -/

/-- The bytes that the frame has received (R28). -/
def received (s : State) : List Byte := s.frBuf.toList.take s.frCnt

/-- A frame armed under ECHO_MODEL = ANY that has not expired: it takes any byte until it is full (R124, R129). -/
structure Receiving (s : State) : Prop where
  any : s.params.echoModel = .any
  armed : s.frArmed = true
  unexpired : s.frExpired = false
  within : s.frCnt ≤ s.frN.toNat

theorem FrameLen.toNat_le (n : FrameLen) : n.toNat ≤ 8 := by cases n <;> decide

theorem length_received {s : State} (rcv : Receiving s) : (received s).length = s.frCnt := by
  have fits : s.frCnt ≤ 8 := rcv.within.trans s.frN.toNat_le
  simpa [received] using fits

theorem take_received {s : State} (rcv : Receiving s) : (received s).take s.frN.toNat = received s :=
  List.take_of_length_le ((length_received rcv).trans_le rcv.within)

theorem take_received_append_nil {s : State} (rcv : Receiving s) :
    (received s ++ []).take s.frN.toNat = received s := by
  rw [List.append_nil, take_received rcv]

/-- The byte an open frame takes goes to the end of those received. -/
theorem received_push {s : State} (room : s.frCnt < 8) (e : Byte) (es : List Event) :
    received { s with frBuf := s.frBuf.setIfInBounds s.frCnt e, frCnt := s.frCnt + 1, hist := es } =
      received s ++ [e] := by
  simp [received, List.take_add_one, List.take_set_of_le, room]

/-- The state once line steps have sent so many bytes and left so much in the frame. -/
def exchanged (s : State) (sent : Nat) (buf : Vector Byte 8) (cnt : Nat) (es : List Event) : State :=
  { s with txq := s.txq.drop sent, frBuf := buf, frCnt := cnt, hist := es }

theorem lineTx_eq_exchanged (s : State) : lineTx s = exchanged s 1 s.frBuf s.frCnt (lineTx s).hist := by
  rcases lineTx_cases s with ⟨sent, stays⟩ | ⟨b, bs, queue, sends⟩
  · rw [stays]
    cases s
    simp_all [exchanged]
  · rw [sends, exchanged, queue]
    rfl

/-- One line step: LINE_TX sends a byte of the queue, if there is one, and LINE_RX adds its byte to the frame, if there is
room. -/
theorem Receiving.lineStep {s : State} (rcv : Receiving s) {a : Action} (line : isLineStep a = true) :
    ∃ buf cnt es, runAction a s = .next (exchanged s ([a].count .lineTx) buf cnt es) ∧ cnt ≤ s.frN.toNat ∧
      buf.toList.take cnt = (received s ++ rxBytes [a]).take s.frN.toNat := by
  cases a with
  | lineTx =>
    refine ⟨s.frBuf, s.frCnt, (lineTx s).hist, congrArg Host.Outcome.next (lineTx_eq_exchanged s), rcv.within, ?_⟩
    exact (take_received_append_nil rcv).symm
  | lineRx e =>
    by_cases room : s.frCnt < s.frN.toNat
    · have takes : lineRx e s = _ :=
        lineRx_taken ((frameOpen_iff s).2 ⟨rcv.armed, rcv.unexpired, room⟩) ((echoAdmitted_iff s e).2 (.inl rcv.any))
      refine ⟨_, _, _, congrArg Host.Outcome.next takes, room, ?_⟩
      have short : (received s ++ [e]).length ≤ s.frN.toNat := by
        simpa [length_received rcv] using room
      exact (received_push (room.trans_le s.frN.toNat_le) e []).trans (List.take_of_length_le short).symm
    · have drops : lineRx e s = _ :=
        lineRx_dropped ((frameOpen_eq_false_iff s).2 fun ⟨_, _, short⟩ => room short)
      refine ⟨_, _, _, congrArg Host.Outcome.next drops, rcv.within, ?_⟩
      have full : s.frN.toNat ≤ (received s).length := (Nat.not_lt.1 room).trans_eq (length_received rcv).symm
      exact (take_received rcv).symm.trans (List.take_append_of_le_length full).symm
  | _ => cases line

theorem take_take_append (n : Nat) (l m : List Byte) : (l.take n ++ m).take n = (l ++ m).take n := by
  simp only [List.take_append, List.take_take, List.length_take, min_self]
  congr 2
  omega

theorem rxBytes_cons (a : Action) (as : List Action) : rxBytes (a :: as) = rxBytes [a] ++ rxBytes as := by
  cases a <;> rfl

/-- Any sequence of line steps: what it has sent and received does not depend on how the two are interleaved. -/
theorem Receiving.runSteps_lineSteps (k : Nat) {as acts : List Action} {s : State} (rcv : Receiving s)
    (line : ∀ a ∈ as, isLineStep a = true) (sched : s.sched = as ++ acts) :
    ∃ buf cnt es turn, runSteps (as.length + k) s =
        runSteps k { exchanged s (as.count .lineTx) buf cnt es with sched := acts, turn := turn } ∧
      cnt ≤ s.frN.toNat ∧ buf.toList.take cnt = (received s ++ rxBytes as).take s.frN.toNat := by
  induction as generalizing s with
  | nil =>
    refine ⟨s.frBuf, s.frCnt, s.hist, s.turn, ?_, rcv.within, ?_⟩
    · rw [List.nil_append] at sched
      simp [exchanged, ← sched]
    · exact (take_received_append_nil rcv).symm
  | cons a as ih =>
    obtain ⟨first, rest⟩ := List.forall_mem_cons.1 line
    obtain ⟨buf, cnt, es, moves, le, bytes⟩ :=
      Receiving.lineStep (s := advance s) ⟨rcv.any, rcv.armed, rcv.unexpired, rcv.within⟩ first
    have still : Receiving (exchanged (advance s) ([a].count .lineTx) buf cnt es) :=
      ⟨rcv.any, rcv.armed, rcv.unexpired, le⟩
    obtain ⟨buf', cnt', es', turn', runs, le', bytes'⟩ := ih still rest (congrArg List.tail sched)
    refine ⟨buf', cnt', es', turn', ?_, le', ?_⟩
    · rw [List.length_cons, Nat.add_right_comm, runSteps_of_sched sched moves, runs]
      simp [exchanged, List.count_cons, Nat.add_comm]
    · rw [bytes', rxBytes_cons, ← List.append_assoc]
      exact (congrArg (fun l => (l ++ rxBytes as).take s.frN.toNat) bytes).trans (take_take_append ..)

/-! ## The answer of a full frame (R241)
Each row of R241's table first as one pair: the code by a test of the echoes, the data whatever the code. -/

theorem busAnswer_reset (es : List Byte) :
    busAnswer .reset es =
      ⟨if es.headD 0 = 0xF0 then 1
       else if es.headD 0 = 0x00 then 2
       else if 0x10 ≤ (es.headD 0).toNat ∧ (es.headD 0).toNat ≤ 0xE0 then 0
       else 3, es.headD 0⟩ := by
  unfold busAnswer
  dsimp only
  split_ifs with noDevice short
  · rw [noDevice]
  · rw [short]
  all_goals rfl

theorem busAnswer_wrbit (b : Bool) (es : List Byte) :
    busAnswer (.wrbit b) es =
      ⟨if (es.headD 0 = 0xFF ↔ b = true) then 0 else 5, if es.headD 0 = 0xFF then 1 else 0⟩ := by
  cases b with
  | true =>
    simp only [busAnswer, iff_true]
    split_ifs <;> rfl
  | false =>
    simp only [busAnswer, Bool.false_eq_true, iff_false, ite_not]
    split_ifs <;> rfl

theorem busAnswer_rdbit (es : List Byte) : busAnswer .rdbit es = ⟨0, if es.headD 0 = 0xFF then 1 else 0⟩ := by
  unfold busAnswer
  dsimp only
  split_ifs <;> rfl

theorem busAnswer_wrbyte (v : Byte) (es : List Byte) :
    busAnswer (.wrbyte v) es = ⟨if assemble es = v then 0 else 5, assemble es⟩ := by
  unfold busAnswer
  dsimp only
  split_ifs with same
  · rw [same]
  · rfl

/-- A latched bus command whose frame is full completes with R241's answer to its echoes. -/
theorem completeStep_busAnswer {s : State} {i : Instr} {n : FrameLen} (frame : busFrame i = some n)
    (xfer : s.phase = .xfer) (sent : s.txq = []) (word : mkWord s.cur.op s.cur.arg = encode i) (len : s.frN = n)
    (full : s.frCnt = n.toNat) :
    completeStep s = .next (completed s (if s.cur.op = 0x01 then .normal else s.baudMode)
      (busAnswer i (echoes s)).err (busAnswer i (echoes s)).data) := by
  have op : s.cur.op = i.mnemonic.opcode := by rw [← opField_encode, ← word, opField_mkWord]
  have arg : s.cur.arg = argField (encode i) := by rw [← word, argField_mkWord]
  have rate : i ≠ .reset → (if s.cur.op = 0x01 then BaudMode.normal else s.baudMode) = s.baudMode := fun other =>
    if_neg (by rwa [← opField_mkWord s.cur.op s.cur.arg, word, opField_encode_reset_iff])
  cases i with
  | reset =>
    obtain rfl : FrameLen.one = n := Option.some.inj frame
    rw [if_pos (show s.cur.op = 0x01 from op), busAnswer_reset, headD_echoes]
    exact resetCompletes s xfer sent op len full
  | wrbit b =>
    obtain rfl : FrameLen.one = n := Option.some.inj frame
    rw [rate nofun, busAnswer_wrbit, headD_echoes]
    exact bitCommandsComplete.1 s b xfer sent op (arg.trans (argField_mkWord _ _)) len full
  | rdbit =>
    obtain rfl : FrameLen.one = n := Option.some.inj frame
    rw [rate nofun, busAnswer_rdbit, headD_echoes]
    exact bitCommandsComplete.2 s xfer sent op len full
  | wrbyte v =>
    obtain rfl : FrameLen.eight = n := Option.some.inj frame
    rw [rate nofun, busAnswer_wrbyte, echoes_eight len, ← arg.trans (argField_mkWord _ v)]
    exact byteCommandsComplete.1 s xfer sent op len full
  | rdbyte =>
    obtain rfl : FrameLen.eight = n := Option.some.inj frame
    rw [rate nofun, echoes_eight len]
    exact byteCommandsComplete.2 s xfer sent op len full
  | _ => cases frame

/-! ## The whole exchange (R137, R128, R129, R131) -/

/-- CTRL's turn to the word of a bus command that the gate admits. -/
theorem runAction_accept_bus {s : State} {h : Nat} {i : Instr} {n : FrameLen} (gate : canAccept h s = true)
    (slot : slotOf h s = some (encode i)) (frame : busFrame i = some n) :
    runAction (.accept h) s =
      .next (acceptBus h (encode i) n (busPatterns i) (decide (i = .reset)) { s with reqId := h }) :=
  (acceptStep_of_legal gate slot (decode_eq_ok_iff.2 rfl)).trans (exec_bus frame _)

/-- With the queue sent and the frame full after them, line steps and then the completion end the command. -/
theorem runSteps_exchange {s : State} {i : Instr} {as rest : List Action} (inv : Inv s) (rcv : Receiving s)
    (xfer : s.phase = .xfer) (empty : s.frCnt = 0) (frame : busFrame i = some s.frN)
    (word : mkWord s.cur.op s.cur.arg = encode i) (line : ∀ a ∈ as, isLineStep a = true)
    (sends : s.txq.length ≤ as.count .lineTx) (fills : s.frN.toNat ≤ (rxBytes as).length)
    (sched : s.sched = as ++ .complete :: rest) :
    ∃ t, runSteps (as.length + 1) s = .next t ∧ t.sched = rest ∧ t.phase = .idle ∧ t.baudMode = .normal ∧
      t.crcAcc = s.crcAcc ∧ t.lockOwner = s.lockOwner ∧ waitingOf s.cur.req t = false ∧
      t.hist.getLast? = some (.rsp s.cur.req (busAnswer i ((rxBytes as).take s.frN.toNat)).err
        (busAnswer i ((rxBytes as).take s.frN.toNat)).data) := by
  obtain ⟨buf, cnt, es, turn, runs, le, bytes⟩ := rcv.runSteps_lineSteps 1 line sched
  have sent : s.txq.drop (as.count .lineTx) = [] := List.drop_eq_nil_of_le sends
  rw [received, empty, List.take_zero, List.nil_append] at bytes
  have full : cnt = s.frN.toNat := by
    have len : cnt ≤ 8 := le.trans s.frN.toNat_le
    simpa [len, fills] using congrArg List.length bytes
  subst full
  have done := completeStep_busAnswer (s := advance
    { exchanged s (as.count Action.lineTx) buf s.frN.toNat es with sched := .complete :: rest, turn := turn })
    frame xfer sent word rfl rfl
  refine ⟨_, runs.trans (runSteps_of_sched (a := .complete) rfl done 0), rfl, rfl, inv.rate_restored, rfl, rfl,
    waitingOf_completed _ _ _ _, ?_⟩
  rw [← bytes]
  exact List.getLast?_concat ..

/-- Settles O54: the acceptance leaves the queue and the empty frame of the command, which the line steps send and fill. -/
theorem busExchangeAnswers : Obligations.BusExchangeAnswers := by
  intro s h i n as rest inv any frame ready idle slot lock line sends fills sched
  obtain ⟨-, -, -, -, sent⟩ := inv.idle_quiet idle
  have accepts := runAction_accept_bus (s := advance s) ((canAccept_iff h s).2 ⟨ready, idle, ⟨_, slot⟩, lock⟩) slot frame
  have running := (runAction_effect accepts).keeps_inv inv.advance
  rw [acceptBus_eq] at accepts running
  have queue : (s.txq ++ busPatterns i).length ≤ as.count .lineTx := by
    rwa [sent, List.nil_append, busPatterns_length frame]
  rw [runSteps_of_sched sched accepts]
  exact runSteps_exchange running ⟨any, rfl, rfl, Nat.zero_le _⟩ rfl rfl frame (mkWord_fields _) line queue fills
    (congrArg List.tail sched)

/-! ## Reserved codes (R240) -/

/-- R240's last seven codes are no code's number. -/
theorem ErrCode.ofCode_of_reserved {n : Nibble} (reserved : 9 ≤ n.toNat) : ErrCode.ofCode n = none := by
  by_contra known
  obtain ⟨e, he⟩ := Option.ne_none_iff_exists'.1 known
  have le : n.toNat ≤ 8 := ErrCode.code_of_ofCode he ▸ e.code_le
  omega

theorem hostAwait_reserved {r : Requester} {p : Response} (answer : r.inbox = some p) (reserved : 9 ≤ p.err.toNat) :
    hostAwait r = .error .reservedErrorCode := by
  simp only [hostAwait, answer, ErrCode.ofCode_of_reserved reserved]

theorem hostStep_error {h : Nat} {r : Requester} {s : State} {f : Fault} (hr : s.reqs[h]? = some r)
    (e : hostRun s.turn s.params r = .error f) : hostStep h s = .fault f := by
  simp only [hostStep, hr, e]

/-- Settles O59: each of the three waits takes the response in the same way. -/
theorem reservedCodeFaults : Obligations.ReservedCodeFaults := by
  intro s h r p hr waits answer reserved
  have takes : hostRun s.turn s.params r = hostAwait r := by
    rcases waits with ⟨b, ctl⟩ | ⟨e, ctl⟩ | ⟨v, ctl⟩ <;> simp only [hostRun, ctl]
  exact hostStep_error hr (takes.trans (hostAwait_reserved answer reserved))

end Sys2Proof.Machine
end

section
/-! PROOF. The statements of 70_reset_and_hazards.md: what block reset leaves (R270), how long line-ready holds (R274), and
when the baud mode changes and what it holds back (R277, R278). -/

namespace Sys2Proof.Machine

/-! ## Block reset and line-ready (R270, R274) -/

/-- Settles O40: each value is one that the record update of block reset writes, whatever the state before. -/
theorem blockResetValues : Obligations.BlockResetValues := fun s =>
  ⟨blockReset s, rfl, rfl, rfl, rfl, rfl, rfl, rfl, rfl, rfl, rfl, rfl, rfl, rfl⟩

/-- The only effects that write `ready` are line-ready's, which sets it, and block reset's. -/
theorem Effect.writes_ready {a : Action} {s t : State} (eff : Effect a s t) :
    t.ready = s.ready ∨ (a = .lineReady ∧ t.ready = true) ∨ a = .blockReset := by
  cases eff with
  | idle => exact .inl rfl
  | place => exact .inl rfl
  | start => exact .inl rfl
  | host => exact .inl rfl
  | bus => rw [acceptBus_eq]; exact .inl rfl
  | answer => exact .inl rfl
  | illegal => exact .inl rfl
  | complete => exact .inl rfl
  | lineTx => exact .inl rfl
  | rxTaken => exact .inl rfl
  | rxDropped => exact .inl rfl
  | expire => exact .inl rfl
  | tick => exact .inl rfl
  | lineReady => exact .inr (.inl ⟨rfl, rfl⟩)
  | blockReset => exact .inr (.inr rfl)

/-- Settles O42: of the two effects that write `ready`, only block reset's clears it. -/
theorem readyStaysUntilReset : Obligations.ReadyStaysUntilReset := by
  refine ⟨fun _ => rfl, fun s t ready hs lost => ?_⟩
  rcases (step_effect hs).writes_ready with same | ⟨-, set⟩ | reset
  · exact absurd ((same.trans ready).symm.trans lost) nofun
  · exact absurd (set.symm.trans lost) nofun
  · exact reset

/-! ## The baud mode (R277, R278) -/

/-- Settles O46: the reset rate means XFER, where the gate is closed to every requester. -/
theorem noAcceptanceAtResetRate : Obligations.NoAcceptanceAtResetRate := by
  intro s h inv rate
  obtain ⟨xfer, op⟩ := inv.rate.1 rate
  exact ⟨acceptStep_of_held (canAccept_xfer xfer h), xfer, op⟩

/-- The effects that change the baud mode: block reset's, the acceptance of RESET and the completion of RESET. -/
theorem Effect.changes_baudMode {a : Action} {s t : State} (eff : Effect a s t) (changed : t.baudMode ≠ s.baudMode) :
    a = .blockReset ∨
      (∃ h, a = .accept h ∧ canAccept h s = true ∧ slotOf h s = some 0x0100 ∧ t.baudMode = .reset) ∨
      (a = .complete ∧ canComplete s = true ∧ s.cur.op = 0x01 ∧ t.baudMode = .normal) := by
  cases eff with
  | idle => exact absurd rfl changed
  | place => exact absurd rfl changed
  | start => exact absurd rfl changed
  | host => exact absurd rfl changed
  | bus h w i n _ gate slot legal =>
    rw [acceptBus_eq] at changed ⊢
    by_cases reset : i = .reset
    · subst reset
      exact .inr (.inl ⟨h, rfl, gate, slot.trans (congrArg some (decode_eq_ok_iff.1 legal).symm), rfl⟩)
    · exact absurd (if_neg (by simpa using reset)) changed
  | answer => exact absurd rfl changed
  | illegal => exact absurd rfl changed
  | complete _ e d enabled =>
    by_cases op : s.cur.op = 0x01
    · exact .inr (.inr ⟨rfl, enabled, op, if_pos op⟩)
    · exact absurd (if_neg op) changed
  | lineTx => exact absurd rfl changed
  | rxTaken => exact absurd rfl changed
  | rxDropped => exact absurd rfl changed
  | expire => exact absurd rfl changed
  | tick => exact absurd rfl changed
  | lineReady => exact absurd rfl changed
  | blockReset => exact .inl rfl

/-- Settles O47: an acceptance finds the idle block's queue empty and no frame armed (R35), and a completion is enabled only
with the queue sent and the frame full or expired (R131). -/
theorem baudChangesOnQuietLine : Obligations.BaudChangesOnQuietLine := by
  intro s t inv hs changed
  rcases (step_effect hs).changes_baudMode changed with reset | ⟨h, turn, gate, word, rate⟩ | ⟨turn, enabled, op, rate⟩
  · exact .inl reset
  · obtain ⟨-, idle, -, -⟩ := (canAccept_iff h (advance s)).1 gate
    obtain ⟨-, disarmed, -, -, sent⟩ := inv.idle_quiet idle
    exact .inr (.inl ⟨sent, disarmed, rate, h, turn, word⟩)
  · obtain ⟨-, sent, ended⟩ := (canComplete_iff (advance s)).1 enabled
    exact .inr (.inr ⟨sent, ended, rate, op, turn⟩)

end Sys2Proof.Machine
end
